-- ==== Sys2Proof/Word.lean ====
section
/-! DEFINITION. The words of the WS-440: bytes, ticks, and the numbered places of the wing
(00_scope, section 5 "Conventions"). -/

namespace Sys2Proof

/-- One byte of a frame (R191). -/
abbrev Byte := BitVec 8

/-- A tick value: a 32-bit count of 10 ms, taken modulo 2^32 (00_scope, "Time"). -/
abbrev Tick := BitVec 32

/-- Aisles A0 to A3. -/
abbrev Aisle := Fin 4

/-- Stations S0 to S5. -/
abbrev StationNo := Fin 6

/-- The two positions P0 and P1 of a station. -/
abbrev Pos := Fin 2

/-- Zones Z0 to Z4: Z0 to Z3 enclose the aisles, Z4 is the front end. -/
abbrev ZoneNo := Fin 5

/-- The aisles in rising order. -/
def allAisles : List Aisle := [0, 1, 2, 3]

/-- The stations in rising order. -/
def allStations : List StationNo := [0, 1, 2, 3, 4, 5]

/-- The zone that encloses an aisle. -/
def Aisle.zone (a : Aisle) : ZoneNo := ⟨a.val, by omega⟩

/-- The aisle that a zone encloses; Z4 encloses none. -/
def ZoneNo.aisle? (z : ZoneNo) : Option Aisle := if h : z.val < 4 then some ⟨z.val, h⟩ else none

/-- The front-end zone Z4. -/
def frontEnd : ZoneNo := 4

/-- A tick `t` is reached when the current tick minus `t`, modulo 2^32, is below 2^31
(00_scope, "Time"). -/
def Tick.reached (t now : Tick) : Bool := (now - t).toNat < 2147483648

/-- Ticks gone by since `t`, modulo 2^32. -/
def Tick.age (t now : Tick) : Nat := (now - t).toNat

/-- A number of ticks after `t`. -/
def Tick.after (t : Tick) (n : Nat) : Tick := t + BitVec.ofNat 32 n

end Sys2Proof
end

