-- ==== Sys2Proof/Syntax.lean ====
section
/-! DEFINITION. The commands the part takes: one constructor per row of spec/opcode_table.json.
Host requests carry their frame header and their fields as raw numbers, since range tests are the
part's own (each request's BAD_ARGUMENT row). Events carry places of the wing, since each comes in
on a line or link of its own. -/

namespace Sys2Proof

/-- What the framing hands on with a request (R191, R192): the frame's tag, and whether the length
of the field list matches the request. -/
structure Hdr where
  tag : Byte
  lengthOk : Bool
deriving DecidableEq, Repr

/-- A slot address as a request carries it (R191): aisle, side, level, column, one byte each. -/
structure RawSlot where
  aisle : Nat
  side : Nat
  level : Nat
  column : Nat
deriving DecidableEq, Repr

/-- The location of ADD_BIN (R15). -/
inductive BinPlace where
  | slot (x : RawSlot)
  | position (station position : Nat)
deriving DecidableEq, Repr

/-- The disposition of RESOLVE_BIN (R17, R18). -/
inductive Resolution where
  | atSlot (bin : Nat) (x : RawSlot)
  | lost (bin : Nat)
  | atPosition (station position : Nat) (bin : Option Nat)
deriving DecidableEq, Repr

/-- The target of a fetch (R117, R119): an accession number as characters, or a bin number. -/
inductive Target where
  | accession (chars : List Byte)
  | bin (n : Nat)
deriving DecidableEq, Repr

/-- The cursor of LIST_ITEMS (R37). -/
inductive ListCursor where
  | start
  | after (chars : List Byte)
deriving DecidableEq, Repr

/-- START with a selector, or NEXT, of LIST_LOANS (R145). Selector 0 is BORROWER, 1 is OVERDUE. A value that is neither
START nor NEXT has no command in the model; nor has one that names none of the alternatives of `BinPlace`,
`Resolution`, `Target`, `ListCursor` or the destination of MOVE_BIN (log 14 DESIGN CHOICE). -/
inductive LoanPage where
  | start (selector : Nat) (token : Option Nat)
  | next
deriving DecidableEq, Repr

/-- A crane position: a level and a column of the crane's aisle (00_scope, section 5; R81). A drive message with another
position has no command in the model (log 14 DESIGN CHOICE). -/
structure CranePos where
  level : Fin 24
  column : Fin 96
deriving DecidableEq, Repr

/-- The five lines of a zone (chapter 10). -/
inductive ZoneLine where
  | alarm | fault | pre | dis | rearm
deriving DecidableEq, Repr

/-- The levels of one zone's five lines. -/
structure LineLevels where
  alarm : Bool
  fault : Bool
  pre : Bool
  dis : Bool
  rearm : Bool
deriving DecidableEq, Repr

/-- The input lines as a power-on reset finds them (R190): the zone lines, the building authority
line, and the closed confirmation lines of the aisle shutters. -/
structure LinesFound where
  zones : Vector LineLevels 5
  building : Bool
  closed : Vector Bool 4
deriving DecidableEq, Repr

/-- The commands. Each constructor cites the rule its row names. -/
inductive Instr where
  -- bins, slots and the rack map
  | addBin (h : Hdr) (bin height climate : Nat) (place : BinPlace)              -- R15
  | retireBin (h : Hdr) (bin : Nat)                                             -- R16
  | resolveBin (h : Hdr) (r : Resolution)                                       -- R17, R18
  | setSlot (h : Hdr) (x : RawSlot) (height climate : Nat) (blocked : Bool)     -- R5
  | setAisle (h : Hdr) (aisle : Nat) (inService : Bool)                         -- R6
  | slotQuery (h : Hdr) (height climate : Nat) (aisles : BitVec 4)              -- R14
  | binInfo (h : Hdr) (bin : Nat)                                               -- R20
  | slotInfo (h : Hdr) (x : RawSlot)                                            -- R20
  | moveBin (h : Hdr) (bin priority : Nat) (dest : Option RawSlot)              -- R19
  -- items and compartments
  | addItem (h : Hdr) (chars : List Byte) (check : BitVec 16) (thickness cls station : Nat)  -- R29
  | withdrawItem (h : Hdr) (chars : List Byte)                                  -- R30
  | pickItem (h : Hdr) (chars : List Byte) (station : Nat)                      -- R31
  | placeItem (h : Hdr) (chars : List Byte) (station : Nat) (position compartment : Option Nat)  -- R33
  | markMissing (h : Hdr) (chars : List Byte)                                   -- R35
  | itemInfo (h : Hdr) (chars : List Byte)                                      -- R36
  | listItems (h : Hdr) (bin : Nat) (cursor : ListCursor)                       -- R37
  -- aisle queues and dispatch
  | stopAisle (h : Hdr) (aisle : Nat)                                           -- R64
  | startAisle (h : Hdr) (aisle : Nat)                                          -- R65
  | cancelJob (h : Hdr) (job : Nat)                                             -- R66
  | auditAisle (h : Hdr) (aisle : Nat)                                          -- R77
  | setDispatch (h : Hdr) (setting value : Nat)                                 -- R79
  | jobInfo (h : Hdr) (job : Nat)                                               -- R80
  | aisleInfo (h : Hdr) (aisle : Nat)                                           -- R80
  -- cranes
  | recoverCrane (h : Hdr) (aisle disposition : Nat) (x : Option RawSlot)       -- R93
  | portRemove (h : Hdr) (aisle bin : Nat)                                      -- R102
  | craneInfo (h : Hdr) (aisle : Nat)                                           -- R103
  | setCrane (h : Hdr) (value : Nat)                                            -- R96
  -- stations, fetches and batches
  | openStation (h : Hdr) (station : Nat)                                       -- R105
  | closeStation (h : Hdr) (station : Nat)                                      -- R105
  | releaseBin (h : Hdr) (station position : Nat)                               -- R113
  | fetch (h : Hdr) (station priority : Nat) (target : Target)                  -- R117
  | fetchBatch (h : Hdr) (station mode priority : Nat) (targets : List Target)  -- R119
  | cancelBatch (h : Hdr) (batch : Nat)                                         -- R124
  | setStation (h : Hdr) (setting : Nat) (station : Option Nat) (value : Nat)   -- R125
  | stationInfo (h : Hdr) (station : Nat)                                       -- R126
  | batchInfo (h : Hdr) (batch : Nat)                                           -- R126
  -- borrowers, loans and the calendar
  | registerBorrower (h : Hdr) (token cls : Nat)                                -- R128
  | setBorrower (h : Hdr) (token cls : Nat) (blocked : Bool)                    -- R129 (the flag byte: log 14)
  | retireBorrower (h : Hdr) (token : Nat)                                      -- R130
  | setPolicy (h : Hdr) (cls field value : Nat)                                 -- R131
  | setCalendar (h : Hdr) (first count mark : Nat)                              -- R133
  | setCalendarBase (h : Hdr) (base : Nat)                                      -- R134
  | setDay (h : Hdr) (day : Nat)                                                -- R135
  | checkout (h : Hdr) (chars : List Byte) (token : Nat)                        -- R139
  | renew (h : Hdr) (chars : List Byte)                                         -- R141
  | returnAtDesk (h : Hdr) (chars : List Byte)                                  -- R143
  | earliestDue (h : Hdr) (selector : Nat) (arg : Option Nat)                   -- R144
  | listLoans (h : Hdr) (page : LoanPage)                                       -- R145
  | borrowerInfo (h : Hdr) (token : Nat)                                        -- R146
  | loanInfo (h : Hdr) (loan : Nat)                                             -- R146
  | calendarInfo (h : Hdr) (first count : Nat)                                  -- R146
  -- holds
  | placeHold (h : Hdr) (chars : List Byte) (token : Nat)                       -- R151
  | cancelHold (h : Hdr) (chars : List Byte) (token : Nat)                      -- R159
  | setRecall (h : Hdr) (setting value : Nat)                                   -- R157
  | holdInfo (h : Hdr) (chars : List Byte) (token : Nat)                        -- R161
  -- returns
  | trayRemove (h : Hdr) (chars : List Byte) (station : Nat)                    -- R168
  | trayInfo (h : Hdr)                                                          -- R168
  -- fire zones and wing authority
  | reopenZone (h : Hdr) (zone : Nat)                                           -- R183
  | claimWing (h : Hdr)                                                         -- R186
  | yieldWing (h : Hdr)                                                         -- R186
  | supervise (h : Hdr) (epoch : Nat)                                           -- R187
  | setInterlock (h : Hdr) (setting value : Nat)                                -- R188
  | zoneInfo (h : Hdr) (zone : Nat)                                             -- R189
  | wingInfo (h : Hdr)                                                          -- R189
  -- the Service Port
  | status (h : Hdr)                                                            -- R194
  | fetchNotice (h : Hdr)                                                       -- R195
  | resetController (h : Hdr)                                                   -- R197
  | badFrame (frame : List Byte)                                                -- R192
  | unknownRequest (tag code : Byte)                                            -- R192
  | frameWhileSlotFull (frame : List Byte)                                      -- R193
  | responseRead (clocked : Nat)                                                -- R193
  -- drive messages
  | ready (a : Aisle)                                                           -- R85
  | accepted (a : Aisle) (tag : Byte)                                           -- R86
  | picked (a : Aisle) (tag : Byte)                                             -- R87
  | done (a : Aisle) (tag : Byte) (pos : CranePos)                              -- R88
  | verified (a : Aisle) (tag : Byte) (read : Option Nat)                       -- R88
  | aborted (a : Aisle) (tag : Byte) (pos : CranePos) (load : Bool)             -- R98
  | fault (a : Aisle) (tag : Byte) (kind : Byte) (pos : CranePos) (load : Bool) -- R89
  | parked (a : Aisle)                                                          -- R97
  | rested (a : Aisle)                                                          -- R96
  -- crane timers
  | acceptTimeout (a : Aisle)                                                   -- R86
  | readyTimeout (a : Aisle)                                                    -- R86
  | deadlineExpiry (a : Aisle)                                                  -- R86
  | restTimerExpiry (a : Aisle)                                                 -- R96
  -- ports, stations and the sorter
  | portArrival (a : Aisle) (bin : Option Nat)                                  -- R100
  | stationArrival (st : StationNo) (p : Pos) (bin : Option Nat)                -- R110
  | releaseButton (st : StationNo)                                              -- R113
  | residenceExpiry (st : StationNo) (p : Pos)                                  -- R115
  | lampPhase (st : StationNo)                                                  -- R109
  | scan (label : Option (List Byte × BitVec 16))                               -- R164
  -- fire zones and authority
  | zoneLineChange (z : ZoneNo) (line : ZoneLine) (level : Bool)                -- R176
  | zoneInputTaken (z : ZoneNo) (line : ZoneLine)                               -- R177
  | authorityLineChange (level : Bool)                                          -- R176
  | authorityLineTaken                                                          -- R186
  | parkTimeout (a : Aisle)                                                     -- R179
  | shutterTimeout (a : Aisle)                                                  -- R179
  | shutterClosed (a : Aisle)                                                   -- R179
  | shutterOpened (a : Aisle)                                                   -- R184
  | supervisionExpiry                                                           -- R187
  -- the machine
  | powerOnReset (lines : LinesFound)                                           -- R198
  | turnoverExamination                                                         -- R136
  | mountDone                                                                   -- R199
  | recordFault                                                                 -- R200
  | tick                                                                        -- R194
deriving DecidableEq, Repr

end Sys2Proof
end

