-- ==== Sys2Proof/Decode.lean ====
section
/-! DEFINITION. The command that a word spells. No row of the opcode table has bits: the manual gives the
frames of requests without their request codes, and events have no encoding, so no word spells a command
(log 2 DESIGN CHOICE). -/

namespace Sys2Proof

/-- The command that a word of `nbits` bits spells: none, for every word (log 2 DESIGN CHOICE). -/
def decodeTableWord (_nbits _w : Nat) : Option Instr := none

end Sys2Proof
end

