-- ==== Sys2Proof/Config.lean ====
section
/-! DEFINITION. The fixed sizes of the WS-440, and the free values: what the manual leaves open
and the part nevertheless completes. A free value has no body, so no proof can see what it is. -/

namespace Sys2Proof

/-- Levels of a rack side (section 1.1). -/
def Config.levels : Nat := 24
/-- Columns of a rack side (section 1.1). -/
def Config.columns : Nat := 96
/-- Slots of one aisle: 2 sides of 24 levels of 96 columns (section 1.1). -/
def Config.slotsPerAisle : Nat := 4608
/-- Bin numbers 0 to 16,383 (section 1.2). -/
def Config.bins : Nat := 16384
/-- Room of the item map (R23). -/
def Config.itemRoom : Nat := 524288
/-- Job records (R56). -/
def Config.jobs : Nat := 128
/-- Places of one aisle queue (R58, R62). -/
def Config.queuePlaces : Nat := 32
/-- Entries of the claim table (R45). -/
def Config.claims : Nat := 32
/-- Bins of a station's lane (R108). -/
def Config.lanePlaces : Nat := 4
/-- Bins of a port inbound buffer (R81). -/
def Config.bufferPlaces : Nat := 2
/-- Batch records (R118). -/
def Config.batches : Nat := 8
/-- Borrower records (R127). -/
def Config.borrowers : Nat := 32768
/-- Highest borrower token (R127). -/
def Config.maxToken : Nat := 16777215
/-- Loan records (R138). -/
def Config.loans : Nat := 65536
/-- Hold records (R149). -/
def Config.holds : Nat := 16384
/-- Holds of one item's queue (R150). -/
def Config.itemHolds : Nat := 8
/-- Items of the returns tray (R167). -/
def Config.trayPlaces : Nat := 24
/-- Notices of the notice queue (R195). -/
def Config.notices : Nat := 64
/-- Events kept during mount, for each of the two lists (R101, R104). -/
def Config.kept : Nat := 32
/-- Capacity of a compartment in units (R27). -/
def Config.compartment : Nat := 40
/-- Days of the calendar window (R132). -/
def Config.window : Nat := 512
/-- Ticks of the accept and ready timers (R86). -/
def Config.linkTimer : Nat := 200
/-- Saturation of a travel estimate in ds (R69). -/
def Config.maxTravel : Nat := 1023
/-- The last day, always open (R132). -/
def Config.lastDay : Nat := 65535

/-- FREE VALUE (log 10 DESIGN CHOICE). The bytes a read returns for an answer whose fields do not fit the length
byte's range 3 to 250 (R191); the argument is the frame's content without its length limit. -/
opaque Config.overlongFrame : List Byte → List Byte

/-- FREE VALUE (log 11 DESIGN CHOICE). The height class reported for an UNUSED bin record, whose classes "are not
meaningful" (R7). -/
opaque Config.unusedHeight : Nat → Byte

/-- FREE VALUE (log 11 DESIGN CHOICE). The climate class reported for an UNUSED bin record (R7). -/
opaque Config.unusedClimate : Nat → Byte

/-- FREE VALUE (log 12 DESIGN CHOICE). The loan period L of the due-day arithmetic for a loan of an item that is
neither GENERAL nor SHORT, for each borrower class; R137 gives L for those two classes only. -/
opaque Config.otherLoanDays : Nat → Nat

end Sys2Proof
end

