-- ==== Sys2Proof/Machine/State.lean ====
section
/-! DEFINITION. The state of the part: every record, queue, timer, flag and line the manual names,
grouped by the block that owns it (00_scope, section 3), with the model's two own fields (the command
queue and the trace of what was sent); the reasons a step can stop; and the state after reset. -/

namespace Sys2Proof.Machine

/-! ### Tables -/

/-- A table of numbered records: (number, record) pairs in rising order of number. -/
abbrev Tab (α : Type) := List (Nat × α)

/-! ### Bins and slots (chapter 1) -/

/-- The two sides of an aisle. -/
inductive Side where
  | left | right
deriving DecidableEq, Repr

/-- A slot address of the rack (R1). -/
structure SlotAddr where
  aisle : Aisle
  side : Side
  level : Fin 24
  column : Fin 96
deriving DecidableEq, Repr

/-- Height classes 1 (standard) and 2 (tall). -/
inductive Height where
  | standard | tall
deriving DecidableEq, Repr

/-- Climate classes 0 (general) and 1 (climate). -/
inductive Climate where
  | general | controlled
deriving DecidableEq, Repr

/-- A slot's state; the bin number is present when OCCUPIED or RESERVED (R1). -/
inductive SlotState where
  | free
  | occupied (bin : Nat)
  | reserved (bin : Nat)
deriving DecidableEq, Repr

/-- A slot record (R1); its address is its number in the table. -/
structure Slot where
  state : SlotState
  height : Height
  climate : Climate
  blocked : Bool
  held : Option Nat
deriving DecidableEq, Repr

/-- A bin's state with the location fields present in it (R7). -/
inductive BinState where
  | unused
  | stored (slot : SlotAddr)
  | onCrane (reserved : Option SlotAddr)
  | enRoute (dest : StationNo)
  | presented (station : StationNo) (pos : Pos)
  | returning (aisle : Aisle) (reserved : Option SlotAddr)
  | atPort (aisle : Aisle) (reserved : Option SlotAddr)
  | uncertain
deriving DecidableEq, Repr

/-- A bin's owner (R41). -/
inductive Owner where
  | none
  | job (j : Nat)
  | station (st : StationNo)
  | fire
deriving DecidableEq, Repr

/-- A bin record (R7). -/
structure Bin where
  state : BinState
  height : Height
  climate : Climate
  owner : Owner
  audit : Bool
  fills : Vector Nat 8
  count : Nat
deriving DecidableEq, Repr

/-! ### Items (chapter 2) -/

/-- Item classes (R24). -/
inductive ItemClass where
  | general | short | ref | rare
deriving DecidableEq, Repr

/-- An item's state with the fields present in it (R23). -/
inductive ItemState where
  | shelved (bin : Nat) (compartment : Fin 8)
  | atDesk (station : StationNo)
  | onLoan (loan : Nat)
  | inTray
  | holdShelf (station : StationNo)
  | missing
deriving DecidableEq, Repr

/-- An item record (R23), keyed by its accession number; the queue lists hold numbers. -/
structure Item where
  thickness : Nat
  cls : ItemClass
  state : ItemState
  queue : List Nat
deriving DecidableEq, Repr

/-! ### Borrowers, loans, holds (chapters 7 and 8) -/

/-- A borrower record (R127), keyed by its token. -/
structure Borrower where
  cls : Fin 4
  blocked : Bool
  loans : Nat
  holds : Nat
deriving DecidableEq, Repr

/-- A loan record (R138), keyed by its number. -/
structure Loan where
  item : Nat
  borrower : Nat
  checkout : Nat
  due : Nat
  renewals : Nat
  recalled : Bool
deriving DecidableEq, Repr

/-- A hold's state; the expiry day is present when READY (R149). -/
inductive HoldState where
  | waiting
  | ready (expiry : Nat)
deriving DecidableEq, Repr

/-- A hold record (R149), keyed by its number. -/
structure Hold where
  item : Nat
  borrower : Nat
  placed : Nat
  state : HoldState
deriving DecidableEq, Repr

/-- A row of the policy table (R131). -/
structure PolicyRow where
  generalDays : Nat
  shortDays : Nat
  maxLoans : Nat
  maxRenewals : Nat
  maxHolds : Nat
  capDay : Nat
  pickupDays : Nat
deriving DecidableEq, Repr

/-! ### Settings -/

/-- Dispatch and travel settings (R79). -/
structure DispatchSettings where
  ageStep : Nat
  wt : Nat
  ah : Nat
  av : Nat
  bh : Nat
  bv : Nat
  wake : Nat
  handling : Nat
  margin : Nat
deriving DecidableEq, Repr

/-- Station settings (R125). The residence limit of S4 is its fill residence. -/
structure StationSettings where
  residence : Vector Nat 6
  fillThreshold : Nat
  lampOn : Nat
  lampOff : Nat
deriving DecidableEq, Repr

/-- Recall settings (R157). -/
structure RecallSettings where
  grace : Nat
  minLoan : Nat
deriving DecidableEq, Repr

/-- Interlock settings (R188). -/
structure InterlockSettings where
  filter : Nat
  park : Nat
  shutter : Nat
  supervision : Nat
deriving DecidableEq, Repr

/-- The persistent settings of record memory. -/
structure Settings where
  dispatch : DispatchSettings
  restIdle : Nat
  station : StationSettings
  recalls : RecallSettings
  interlock : InterlockSettings
deriving DecidableEq, Repr

/-- The Record Store Controller: the persistent records. -/
structure Rsc where
  formatOk : Bool
  slots : Tab Slot
  bins : Tab Bin
  items : Tab Item
  borrowers : Tab Borrower
  loans : Tab Loan
  holds : Tab Hold
  tray : List Nat
  policy : Vector PolicyRow 4
  calBase : Nat
  closedDays : List Nat
  today : Nat
  inService : Vector Bool 4
  settings : Settings
deriving DecidableEq, Repr

/-! ### Claims (chapter 3) -/

/-- Who holds a claim (R45). -/
inductive Claimant where
  | single
  | batch (b e : Nat)
  | fill
  | page (hold : Nat)
deriving DecidableEq, Repr

/-- An entry of the claim table (R45). -/
structure Claim where
  bin : Nat
  claimant : Claimant
  dest : StationNo
  priority : Nat
  placed : Tick
deriving DecidableEq, Repr

/-- The Claim Unit: the claim table in order of placement, and the jobs recorded against FIRE-owned
bins (R53). The owner fields stand in the bin records (R41). -/
structure Clu where
  claims : List Claim
  fireJobs : Tab Nat
deriving DecidableEq, Repr

/-! ### Jobs and queues (chapter 4) -/

/-- Job kinds (R56, R57). -/
inductive JobKind where
  | fetch | putaway | shift | verify | putback
deriving DecidableEq, Repr

/-- A job's source (R56, R57). `transfer` is that of a direct-transfer FETCH, which comes from a
station position; R56 lists no source for it (log 9 DESIGN CHOICE). -/
inductive JobSource where
  | slot (x : SlotAddr)
  | port
  | forks
  | transfer
deriving DecidableEq, Repr

/-- A job's destination (R56, R57); `undecided` while a PUTBACK's bin holds no reservation (R68, R180). -/
inductive JobDest where
  | station (st : StationNo)
  | slot (x : SlotAddr)
  | undecided
deriving DecidableEq, Repr

/-- A job's origin (R56). -/
inductive Origin where
  | single
  | batch (b e : Nat)
  | fill
  | page (hold : Nat)
  | audit
  | fireRecovery
  | return
deriving DecidableEq, Repr

/-- A job record in use (R56), keyed by its number; a direct-transfer FETCH has no aisle. -/
structure Job where
  kind : JobKind
  aisle : Option Aisle
  bin : Nat
  source : JobSource
  dest : JobDest
  priority : Nat
  enqueued : Tick
  origin : Origin
  active : Bool
deriving DecidableEq, Repr

/-- Aisle queue states (R63). -/
inductive QueueState where
  | running | stopping | stopped
deriving DecidableEq, Repr

/-- Why a queue is not RUNNING (R63). -/
inductive StopReason where
  | host | overfill | latch
deriving DecidableEq, Repr

/-- One aisle queue (R62, R63), its waiting PUTBACK (R60) and its deferred putaways with the tick of
each bin's arrival (R60). -/
structure Queue where
  jobs : List Nat
  state : QueueState
  reason : Option StopReason
  putback : Option Nat
  deferred : List (Nat × Tick)
deriving DecidableEq, Repr

/-- The context of a running AUDIT_AISLE (R77, R78). `betweenPasses` says that the next pass waits for
the next ending of a job of the aisle. -/
structure Audit where
  aisle : Aisle
  cursor : Nat
  pass : Nat
  created : Nat
  passed : Nat
  lastPassed : Nat
  betweenPasses : Bool
deriving DecidableEq, Repr

/-- The Dispatch Unit. -/
structure Dsp where
  jobs : Tab Job
  lastJob : Nat
  queues : Vector Queue 4
  audit : Option Audit
deriving DecidableEq, Repr

/-! ### Cranes (chapter 5) -/

/-- Crane states, in the order R81 lists them. -/
inductive CraneState where
  | down | idle | busy | aborting | parking | parked | resting | waking | halted
deriving DecidableEq, Repr

/-- Crane faults (R81). -/
inductive CraneFault where
  | none | noAccept | noReady | timeout | driveRestart
  | drive (kind : Byte)
deriving DecidableEq, Repr

/-- The orders sent on an aisle link with what each carries (R83). A slot is none only where the job
that the order serves names none. -/
inductive LinkOrder where
  | retrieve (bin : Nat) (source : Option SlotAddr) (loaded : Bool) (tag : Byte)
  | store (bin : Nat) (dest : Option SlotAddr) (loaded : Bool) (tag : Byte)
  | shift (bin : Nat) (source dest : Option SlotAddr) (tag : Byte)
  | verify (slot : Option SlotAddr) (tag : Byte)
  | abort (tag : Byte)
  | park
  | rest
  | wake
  | clear
deriving DecidableEq, Repr

/-- The kinds of order that carry a job (R83). -/
inductive OrderKind where
  | retrieve | store | shift | verify
deriving DecidableEq, Repr

/-- An outstanding order (R81, R87); `job` is none when orphaned (R92). `slot` is the slot a RETRIEVE,
SHIFT or VERIFY carries as its source. `picked` and `accepted` record the messages taken (R84). -/
structure Order where
  kind : OrderKind
  tag : Byte
  job : Option Nat
  slot : Option SlotAddr
  deadline : Tick
  loaded : Bool
  picked : Bool
  accepted : Bool
deriving DecidableEq, Repr

/-- A crane context (R81) with its timers (R86, R96). `arrivals` holds the tick at which each bin of the port
inbound buffer was taken there, which a deferred putaway carries (R60). -/
structure Crane where
  state : CraneState
  position : Option CranePos
  order : Option Order
  selected : Option Nat
  lastTag : Byte
  load : Bool
  fault : CraneFault
  restOutstanding : Bool
  resume : Option Nat
  buffer : List Nat
  overflow : List Nat
  arrivals : List (Nat × Tick)
  acceptTimer : Option Tick
  readyTimer : Option Tick
  restTimer : Option Tick
  clearSent : Bool
deriving DecidableEq, Repr

/-! ### Stations and batches (chapter 6) -/

/-- Station states outside FIRE_HOLD; also the values of the prior state (R104). -/
inductive OpenState where
  | closed | opened | draining
deriving DecidableEq, Repr

/-- A station's state (R104); FIRE_HOLD carries the prior state. -/
inductive StationState where
  | normal (st : OpenState)
  | fireHold (prior : OpenState)
deriving DecidableEq, Repr

/-- What stands at a position (R109). -/
inductive Content where
  | empty
  | bin (b : Nat)
  | unknown
deriving DecidableEq, Repr

/-- One position of a station (R104, R109). -/
structure Position where
  content : Content
  arrival : Option Tick
  deadline : Option Tick
  attention : Bool
  restart : Option Tick
  expiredInHold : Bool
deriving DecidableEq, Repr

/-- A station lamp (R109): OFF, or BLINKING, lit or dark, with the tick at which the phase ends. -/
inductive Lamp where
  | off
  | lit (ends : Tick)
  | dark (ends : Tick)
deriving DecidableEq, Repr

/-- A station record (R104). -/
structure Station where
  state : StationState
  lane : List Nat
  positions : Vector Position 2
  lamp : Lamp
deriving DecidableEq, Repr

/-- Batch modes (R118). -/
inductive BatchMode where
  | burst | paced
deriving DecidableEq, Repr

/-- Batch entry states (R118). -/
inductive EntryState where
  | pending | claimed | queued | delivered | failed
deriving DecidableEq, Repr

/-- A batch entry (R118); its index is its place in the list. -/
structure Entry where
  target : Target
  bin : Option Nat
  released : Bool
  state : EntryState
deriving DecidableEq, Repr

/-- Batch states (R118). -/
inductive BatchState where
  | active | done | cancelled
deriving DecidableEq, Repr

/-- A batch record in use (R118), keyed by its number. -/
structure Batch where
  station : StationNo
  mode : BatchMode
  sequence : Nat
  priority : Nat
  entries : List Entry
  state : BatchState
deriving DecidableEq, Repr

/-- The Station Unit. -/
structure Stu where
  stations : Vector Station 6
  batches : Tab Batch
  batchSeq : Nat
deriving DecidableEq, Repr

/-! ### Circulation (chapters 7 and 8) -/

/-- The context of a running day turnover (R135). -/
structure Turnover where
  day : Nat
  cursor : Nat
  expired : Nat
deriving DecidableEq, Repr

/-- The selector of a loan listing (R145). -/
inductive LoanSelector where
  | borrower (token : Nat)
  | overdue
deriving DecidableEq, Repr

/-- The loan listing cursor (R145). -/
structure Listing where
  selector : LoanSelector
  last : Nat
deriving DecidableEq, Repr

/-- The state of a hold page (R153). -/
inductive PageState where
  | unplaced
  | onJob (j : Nat)
  | onClaim
  | shared (j : Nat)
  | held (z : ZoneNo)
deriving DecidableEq, Repr

/-- An entry of the page list (R153). -/
structure Page where
  hold : Nat
  item : Nat
  bin : Nat
  state : PageState
deriving DecidableEq, Repr

/-- The Circulation Engine. The pages delivered while their bin has stayed presented are kept, each as its hold and
its bin: R154 asks whether a page was delivered in the bin's present stay at S5. -/
structure Circ where
  turnover : Option Turnover
  listing : Option Listing
  pages : List Page
  delivered : List (Nat × Nat)
deriving DecidableEq, Repr

/-! ### Returns induction (chapter 9) -/

/-- The state of a fill list entry (R169). -/
inductive FillState where
  | unplaced
  | placed
  | held (z : ZoneNo)
  | presented (p : Pos)
deriving DecidableEq, Repr

/-- An entry of the fill list (R169). -/
structure FillEntry where
  bin : Nat
  state : FillState
deriving DecidableEq, Repr

/-- The Returns Induction Unit. -/
structure Riu where
  fills : List FillEntry
  noQualifier : Bool
deriving DecidableEq, Repr

/-- A divert instruction (R163). -/
inductive Divert where
  | fill (p : Pos) (compartment : Fin 8)
  | tray
  | holds
  | exception
deriving DecidableEq, Repr

/-! ### Fire zones and authority (chapter 10) -/

/-- Zone states, in the order R175 lists them. -/
inductive ZoneState where
  | normal | securing | secured | discharged | standby
deriving DecidableEq, Repr

/-- A filtered input line (R176): the level on the line, the filtered level, and the expiry tick of a
running filter count. -/
structure Line where
  level : Bool
  filtered : Bool
  count : Option Tick
deriving DecidableEq, Repr

/-- The five lines of a zone. -/
structure ZoneLines where
  alarm : Line
  fault : Line
  pre : Line
  dis : Line
  rearm : Line
deriving DecidableEq, Repr

/-- The shutter command (R175). -/
inductive ShutterCmd where
  | close | open
deriving DecidableEq, Repr

/-- A zone record (R175); Z4 uses its state and lines only. -/
structure Zone where
  state : ZoneState
  lines : ZoneLines
  parkTimer : Option Tick
  shutterCmd : ShutterCmd
  shutterTimer : Option Tick
  confirmed : Bool
  reopenPending : Bool
  latch : Bool
deriving DecidableEq, Repr

/-- The wing authority state (R186). -/
inductive Authority where
  | library | handover | building | vacant
deriving DecidableEq, Repr

/-- The Fire Interlock Unit. -/
structure Fiu where
  zones : Vector Zone 5
  building : Line
  libraryClaim : Bool
  buildingClaim : Bool
  epoch : Byte
  lapsed : Bool
  supTimer : Option Tick
deriving DecidableEq, Repr

/-! ### The Service Port (chapter 11) -/

/-- The result codes (section 11.7). -/
inductive ResultCode where
  | done | started | badFrame | unknownRequest | badArgument | mounting | recordFault | busy
  | noAuthority | notSupervised | epoch | buildingHolds | notAtDesk
  | noSlot | slotNotFree | occupied | badAttribute | notPermitted | binInUse | positionNotFree
  | notPresented | notEmpty | claimed | notUncertain | notUnknown
  | notShelved | notAtStation | noBin | climate | noRoom | noJob | notCancellable | active
  | latched | zone | notHalted | jobActive | loadMismatch | notAtPort | notStandby | inProgress
  | otherAisle | blocked | unknownItem | onLoan
  | queueFull | claimsFull | stationClosed | binUncertain | unknownBin | fireHold | notStored
  | owned | batchFull | noBatch | notActive | unknown | tableFull | limit | notLoanable
  | heldForOther | holds | recalled | noExtension | notOnLoan | outOfWindow | closedRun
  | backward | noListing | notHoldable | duplicate | ownLoan | poolFull | noHold | notInTray
  | badLabel | mapFull
deriving DecidableEq, Repr

/-- One field of an answer (R191): a number of some bytes, an absent value of some bytes (every bit
set), or characters. -/
inductive Field where
  | num (width value : Nat)
  | absent (width : Nat)
  | chars (cs : List Byte)
deriving DecidableEq, Repr

/-- A response (R191): tag, result code, CLAMPED indication, fields. -/
structure Response where
  tag : Byte
  code : ResultCode
  clamped : Bool
  fields : List Field
deriving DecidableEq, Repr

/-- The notice kinds (section 11.8). -/
inductive NoticeKind where
  | mountDone | recordFault | zone | authority | supervisionLapse | craneUnparked | shutterFault
  | craneFault | linkError | lateDone | orphanDone | aisleStopped | auditDone | portMisroute
  | portUnreadable | portOverfill | verifyConflict | binFound | misrouted | positionUnknown
  | positionConflict | fetchArrived | fetchFailed | residence | releaseRefused | stationDrained
  | batchDone | pageReady | holdReady | holdExpired | holdCancelled | recalled | returned
  | turnoverDone | foundElsewhere | itemFound | returnException
deriving DecidableEq, Repr

/-- A notice: a kind and three 4-byte arguments (R195). -/
structure Notice where
  kind : NoticeKind
  arg1 : Nat
  arg2 : Nat
  arg3 : Nat
deriving DecidableEq, Repr

/-- The mount state (R194). -/
inductive MountState where
  | mounting | mounted | recordFault
deriving DecidableEq, Repr

/-- The operation that holds the long-operation slot (R196). -/
inductive LongOp where
  | turnover | audit | mount
deriving DecidableEq, Repr

/-- A station event kept during mount (R104). -/
structure StationEvent where
  station : StationNo
  pos : Pos
  bin : Option Nat
deriving DecidableEq, Repr

/-- A port arrival kept during mount (R101). -/
structure PortEvent where
  aisle : Aisle
  bin : Option Nat
deriving DecidableEq, Repr

/-- The Service Port, with the lists of kept events. -/
structure Svp where
  resp : Option Response
  notices : List Notice
  overrun : Bool
  mountState : MountState
  longOp : Option LongOp
  tick : Tick
  keptStation : List StationEvent
  keptPort : List PortEvent
deriving DecidableEq, Repr

/-- What the part sends: orders (R83), divert and tray instructions (R163), bytes read (R193). -/
inductive Output where
  | order (a : Aisle) (o : LinkOrder)
  | divert (d : Divert)
  | tray (accession : Nat) (p : Pos) (compartment : Fin 8)
  | read (bytes : List Byte)
deriving DecidableEq, Repr

/-- The state of the part. `pending` (the commands that wait, oldest first) and `outputs` (what has
been sent, oldest first) are the model's own fields (log 1 DESIGN CHOICE, log 27 DESIGN CHOICE). -/
structure State where
  pending : List Instr
  outputs : List Output
  svp : Svp
  rsc : Rsc
  clu : Clu
  dsp : Dsp
  cranes : Vector Crane 4
  stu : Stu
  circ : Circ
  riu : Riu
  fiu : Fiu
deriving DecidableEq, Repr

/-- The reasons the part could stop. There is none: the manual describes no state in which the part
ceases to take commands. -/
inductive Fault where
deriving DecidableEq, Repr

/-- The reasons a command has no meaning. -/
inductive Refusal where
  /-- Raised by an arm of `exec` whose command has no meaning yet. Safe: the model stops. -/
  | notModelled (mnemonic : String)
  /-- Raised by BAD_FRAME and FRAME_WHILE_SLOT_FULL for raw bytes that pass every framing test of
  R192 while the response slot is empty: the frame names a request by its code, and the manual lists
  no request codes (log 2 DESIGN CHOICE). Safe: the model stops where the part serves a request. -/
  | requestCodeUnlisted
deriving DecidableEq, Repr

/-- The outcome of a command. -/
abbrev Out := Host.Outcome State Fault Refusal

/-! ### The state after reset (R190, R198; log 3 DESIGN CHOICE) -/

/-- An UNUSED bin record (R7): owner NONE, audit-pending clear, fills 0, item count 0. -/
def Bin.unused : Bin :=
  { state := .unused, height := .standard, climate := .general, owner := .none, audit := false,
    fills := Vector.replicate 8 0, count := 0 }

/-- An empty position (R104). -/
def Position.empty : Position :=
  { content := .empty, arrival := none, deadline := none, attention := false, restart := none,
    expiredInHold := false }

/-- A station record after reset (R104). -/
def Station.reset : Station :=
  { state := .normal .closed, lane := [], positions := Vector.replicate 2 Position.empty, lamp := .off }

/-- A crane context after a reset at a tick (R81): DOWN, with the CLEAR's ready timer running. -/
def Crane.reset (now : Tick) : Crane :=
  { state := .down, position := none, order := none, selected := none, lastTag := 0, load := false,
    fault := .none, restOutstanding := false, resume := none, buffer := [], overflow := [],
    arrivals := [], acceptTimer := none, readyTimer := some (now.after Config.linkTimer), restTimer := none,
    clearSent := false }

/-- An aisle queue after reset (R62, R63). -/
def Queue.reset : Queue :=
  { jobs := [], state := .running, reason := none, putback := none, deferred := [] }

/-- A line that is inactive and not counting. -/
def Line.inactive : Line := { level := false, filtered := false, count := none }

/-- A zone after a power-on reset that finds its lines inactive and its shutter unconfirmed (R190). -/
def Zone.reset : Zone :=
  { state := .standby,
    lines := { alarm := .inactive, fault := .inactive, pre := .inactive, dis := .inactive,
               rearm := .inactive },
    parkTimer := none, shutterCmd := .close, shutterTimer := none, confirmed := false,
    reopenPending := false, latch := false }

/-- The default policy rows (R131). -/
def PolicyRow.defaults : Vector PolicyRow 4 :=
  #v[{ generalDays := 28, shortDays := 2, maxLoans := 20, maxRenewals := 3, maxHolds := 5,
       capDay := 0, pickupDays := 5 },
     { generalDays := 56, shortDays := 3, maxLoans := 40, maxRenewals := 5, maxHolds := 8,
       capDay := 0, pickupDays := 5 },
     { generalDays := 90, shortDays := 3, maxLoans := 60, maxRenewals := 10, maxHolds := 8,
       capDay := 0, pickupDays := 5 },
     { generalDays := 14, shortDays := 1, maxLoans := 5, maxRenewals := 1, maxHolds := 2,
       capDay := 0, pickupDays := 5 }]

/-- The default settings (R79, R96, R125, R157, R188). -/
def Settings.defaults : Settings :=
  { dispatch := { ageStep := 5, wt := 4, ah := 15, av := 20, bh := 2, bv := 4, wake := 30,
                  handling := 40, margin := 50 },
    restIdle := 0,
    station := { residence := #v[20, 20, 20, 20, 30, 20], fillThreshold := 40, lampOn := 25,
                 lampOff := 25 },
    recalls := { grace := 7, minLoan := 7 },
    interlock := { filter := 5, park := 20, shutter := 10, supervision := 10 } }

/-- The record memory with every table at the value given for initialisation (R199); the format
record is as said. -/
def Rsc.initial (formatOk : Bool) : Rsc :=
  { formatOk := formatOk, slots := [], bins := [], items := [], borrowers := [], loans := [],
    holds := [], tray := [], policy := PolicyRow.defaults, calBase := 0, closedDays := [],
    today := 0, inService := Vector.replicate 4 true, settings := Settings.defaults }

/-- The part right after a power-on reset (R198) over a record memory that was never initialised, with
every input line inactive (log 3 DESIGN CHOICE). Mount is running and no command waits. -/
def State.reset : State :=
  { pending := [],
    outputs := [.order 0 .clear, .order 1 .clear, .order 2 .clear, .order 3 .clear],
    svp := { resp := none, notices := [], overrun := false, mountState := .mounting,
             longOp := some .mount, tick := 0, keptStation := [], keptPort := [] },
    rsc := Rsc.initial false,
    clu := { claims := [], fireJobs := [] },
    dsp := { jobs := [], lastJob := 127, queues := Vector.replicate 4 Queue.reset, audit := none },
    cranes := Vector.replicate 4 (Crane.reset 0),
    stu := { stations := Vector.replicate 6 Station.reset, batches := [], batchSeq := 0 },
    circ := { turnover := none, listing := none, pages := [], delivered := [] },
    riu := { fills := [], noQualifier := false },
    fiu := { zones := Vector.replicate 5 Zone.reset, building := Line.inactive,
             libraryClaim := false, buildingClaim := false, epoch := 0, lapsed := false,
             supTimer := none } }

end Sys2Proof.Machine
end

