-- ==== Sys2Proof/Machine/Ops.lean ====
section
/-! DEFINITION. The named operations every meaning is built from: tables, reading and writing the
records of each block, notices and outputs, the answer to a request, and the work list of a command
(what an action leaves to be offered, retried or tested before it ends). -/

namespace Sys2Proof.Machine

/-! ### Tables -/

/-- The record of number `n`, if it is listed. -/
def Tab.find {α : Type} : Tab α → Nat → Option α
  | [], _ => none
  | (k, v) :: t, n => if k = n then some v else Tab.find t n

/-- Writes the record of number `n` at its place in the rising order. -/
def Tab.put {α : Type} : Tab α → Nat → α → Tab α
  | [], n, v => [(n, v)]
  | (k, u) :: t, n, v =>
    if n < k then (n, v) :: (k, u) :: t
    else if n = k then (n, v) :: t
    else (k, u) :: Tab.put t n v

/-- Removes the record of number `n`. -/
def Tab.del {α : Type} (t : Tab α) (n : Nat) : Tab α := t.filter (fun e => e.1 != n)

/-- The form every table has: numbers strictly rising. -/
abbrev Tab.wf {α : Type} (t : Tab α) : Prop := (t.map Prod.fst).Pairwise (· < ·)

/-- The lowest number from `n` on that a table does not list, for a table in rising order. -/
def Tab.lowestFree {α : Type} : Tab α → Nat → Nat
  | [], n => n
  | (k, _) :: t, n => if k = n then Tab.lowestFree t (n + 1) else if k < n then Tab.lowestFree t n else n

/-- Inserts into a list kept in rising order of a rank, after the elements of equal rank. -/
def insertBy {α : Type} (rank : α → Nat) (x : α) : List α → List α
  | [] => [x]
  | y :: t => if rank x < rank y then x :: y :: t else y :: insertBy rank x t

/-- A list in rising order of a rank; elements of equal rank keep their order. -/
def sortBy {α : Type} (rank : α → Nat) : List α → List α
  | [] => []
  | l => l.foldl (fun acc x => insertBy rank x acc) []

/-! ### Slots -/

/-- The place of a slot in its aisle's order of level, then column, then side L before R: the order
of the search's tie keys (R12) and of the audit's walk (R77). -/
def SlotAddr.index (x : SlotAddr) : Nat :=
  (x.level.val * 96 + x.column.val) * 2 + (match x.side with | .left => 0 | .right => 1)

/-- The number of a slot record in the rack map. -/
def SlotAddr.key (x : SlotAddr) : Nat := x.aisle.val * Config.slotsPerAisle + x.index

/-- The slot at a place of an aisle's order. -/
def SlotAddr.ofIndex (a : Aisle) (i : Nat) : SlotAddr :=
  { aisle := a, side := if i % 2 = 0 then .left else .right,
    level := Fin.ofNat 24 (i / 192), column := Fin.ofNat 96 (i / 2 % 96) }

/-- The slot of a record number. -/
def SlotAddr.ofKey (k : Nat) : SlotAddr :=
  SlotAddr.ofIndex (Fin.ofNat 4 (k / Config.slotsPerAisle)) (k % Config.slotsPerAisle)

/-- The level and column of a slot. -/
def SlotAddr.pos (x : SlotAddr) : CranePos := { level := x.level, column := x.column }

/-- A slot record as initialised (R1). -/
def Slot.initial (x : SlotAddr) : Slot :=
  { state := .free, height := if x.level.val ≤ 19 then .standard else .tall,
    climate := if x.aisle.val = 3 then .controlled else .general, blocked := false, held := none }

/-- The slot record of an address; an unlisted slot is as initialised. -/
def State.slot (s : State) (x : SlotAddr) : Slot :=
  (Tab.find s.rsc.slots x.key).getD (Slot.initial x)

/-- Writes a slot record. -/
def State.setSlot (s : State) (x : SlotAddr) (r : Slot) : State :=
  { s with rsc.slots := if r = Slot.initial x then Tab.del s.rsc.slots x.key
                        else Tab.put s.rsc.slots x.key r }

/-- Writes the state of a slot record. -/
def State.setSlotState (s : State) (x : SlotAddr) (st : SlotState) : State :=
  s.setSlot x { s.slot x with state := st }

/-- Writes the held-for field of a slot record (R4). -/
def State.setHeld (s : State) (x : SlotAddr) (j : Option Nat) : State :=
  s.setSlot x { s.slot x with held := j }

/-! ### Bins -/

/-- The bin record of a number; an unlisted bin is UNUSED. -/
def State.bin (s : State) (b : Nat) : Bin := (Tab.find s.rsc.bins b).getD Bin.unused

/-- Writes a bin record. -/
def State.setBin (s : State) (b : Nat) (r : Bin) : State :=
  { s with rsc.bins := if r = Bin.unused then Tab.del s.rsc.bins b else Tab.put s.rsc.bins b r }

/-- Changes a bin record. -/
def State.modBin (s : State) (b : Nat) (f : Bin → Bin) : State := s.setBin b (f (s.bin b))

/-- The slot that a bin's state names, and the state which that slot has with it: OCCUPIED by a STORED bin
(R2), RESERVED for a bin that holds a reservation (R3). -/
def BinState.slotFor (b : Nat) : BinState → Option (SlotAddr × SlotState)
  | .stored x => some (x, .occupied b)
  | .onCrane r => r.map (fun x => (x, .reserved b))
  | .returning _ r => r.map (fun x => (x, .reserved b))
  | .atPort _ r => r.map (fun x => (x, .reserved b))
  | .unused | .enRoute _ | .presented _ _ | .uncertain => none

/-- The slot that a bin's present state names becomes FREE, unless the bin's next state names it as before: both
records are written together (R2, R3). -/
def State.vacate (s : State) (b : Nat) (next : BinState) : State :=
  match (s.bin b).state.slotFor b with
  | some (x, q) =>
    if next.slotFor b ≠ some (x, q) ∧ (s.slot x).state = q then s.setSlotState x .free else s
  | none => s

/-- Writes a bin's state with its location fields, and vacates the slot it leaves, in one action (R2, R3). -/
def State.setBinState (s : State) (b : Nat) (st : BinState) : State :=
  (s.vacate b st).setBin b { s.bin b with state := st }

/-- Writes a bin's owner (R41). -/
def State.setOwner (s : State) (b : Nat) (o : Owner) : State :=
  s.setBin b { s.bin b with owner := o }

/-- The reservation a bin's state holds (R3). -/
def BinState.reserved? : BinState → Option SlotAddr
  | .onCrane r => r
  | .returning _ r => r
  | .atPort _ r => r
  | _ => none

/-- The same state with another reservation; states that hold none are kept. -/
def BinState.withReserved (r : Option SlotAddr) : BinState → BinState
  | .onCrane _ => .onCrane r
  | .returning a _ => .returning a r
  | .atPort a _ => .atPort a r
  | st => st

/-- The slot of a STORED bin. -/
def BinState.storedAt? : BinState → Option SlotAddr
  | .stored x => some x
  | _ => none

/-- The sum of a bin's fills (R27). -/
def Bin.filled (r : Bin) : Nat := r.fills.toList.foldl (· + ·) 0

/-- A bin's free capacity: 320 less the sum of its fills (R171). -/
def Bin.free (r : Bin) : Nat := 320 - r.filled

/-! ### Items, borrowers, loans, holds -/

/-- The item record of an accession number. -/
def State.item (s : State) (acc : Nat) : Option Item := Tab.find s.rsc.items acc
/-- Writes an item record. -/
def State.setItem (s : State) (acc : Nat) (r : Item) : State :=
  { s with rsc.items := Tab.put s.rsc.items acc r }
/-- Removes an item record. -/
def State.delItem (s : State) (acc : Nat) : State := { s with rsc.items := Tab.del s.rsc.items acc }
/-- Writes an item's state. -/
def State.setItemState (s : State) (acc : Nat) (st : ItemState) : State :=
  match s.item acc with
  | some r => s.setItem acc { r with state := st }
  | none => s

/-- The borrower record of a token. -/
def State.borrower (s : State) (t : Nat) : Option Borrower := Tab.find s.rsc.borrowers t
/-- Writes a borrower record. -/
def State.setBorrower (s : State) (t : Nat) (r : Borrower) : State :=
  { s with rsc.borrowers := Tab.put s.rsc.borrowers t r }
/-- Changes a borrower record that is there. -/
def State.modBorrower (s : State) (t : Nat) (f : Borrower → Borrower) : State :=
  match s.borrower t with
  | some r => s.setBorrower t (f r)
  | none => s

/-- The loan record of a number. -/
def State.loan (s : State) (n : Nat) : Option Loan := Tab.find s.rsc.loans n
/-- Writes a loan record. -/
def State.setLoan (s : State) (n : Nat) (r : Loan) : State :=
  { s with rsc.loans := Tab.put s.rsc.loans n r }
/-- Removes a loan record. -/
def State.delLoan (s : State) (n : Nat) : State := { s with rsc.loans := Tab.del s.rsc.loans n }

/-- The hold record of a number. -/
def State.hold (s : State) (n : Nat) : Option Hold := Tab.find s.rsc.holds n
/-- Writes a hold record. -/
def State.setHold (s : State) (n : Nat) (r : Hold) : State :=
  { s with rsc.holds := Tab.put s.rsc.holds n r }
/-- Removes a hold record. -/
def State.delHold (s : State) (n : Nat) : State := { s with rsc.holds := Tab.del s.rsc.holds n }

/-- The policy row of a borrower class (R131). -/
def State.policyRow (s : State) (c : Fin 4) : PolicyRow := s.rsc.policy[c]

/-! ### Jobs and queues -/

/-- The job record of a number; none when free. -/
def State.job (s : State) (j : Nat) : Option Job := Tab.find s.dsp.jobs j
/-- Writes a job record. -/
def State.setJob (s : State) (j : Nat) (r : Job) : State :=
  { s with dsp.jobs := Tab.put s.dsp.jobs j r }
/-- Frees a job record. -/
def State.delJob (s : State) (j : Nat) : State := { s with dsp.jobs := Tab.del s.dsp.jobs j }
/-- Changes a job record that is in use. -/
def State.modJob (s : State) (j : Nat) (f : Job → Job) : State :=
  match s.job j with
  | some r => s.setJob j (f r)
  | none => s
/-- An aisle queue. -/
def State.queue (s : State) (a : Aisle) : Queue := s.dsp.queues[a]
/-- Writes an aisle queue. -/
def State.setQueue (s : State) (a : Aisle) (q : Queue) : State :=
  { s with dsp.queues := s.dsp.queues.set a q }
/-- Places of an aisle queue in use as R58 counts them: its jobs and its waiting PUTBACK. -/
def Queue.used (q : Queue) : Nat := q.jobs.length + (if q.putback.isSome then 1 else 0)
/-- A job stands in an aisle queue, or holds a place of it outside it as a waiting PUTBACK (R60, R62). -/
def Queue.holds (q : Queue) (j : Nat) : Bool := q.jobs.contains j || q.putback = some j
/-- The aisle's queue has a free place (R58). -/
def State.queueRoom (s : State) (a : Aisle) : Bool := (s.queue a).used < Config.queuePlaces
/-- A job record is free (R58). -/
def State.recordRoom (s : State) : Bool := s.dsp.jobs.length < Config.jobs

/-! ### Cranes, stations, batches, zones -/

/-- A crane context. -/
def State.crane (s : State) (a : Aisle) : Crane := s.cranes[a]
/-- Writes a crane context. -/
def State.setCrane (s : State) (a : Aisle) (c : Crane) : State :=
  { s with cranes := s.cranes.set a c }

/-- A bin leaves an aisle's port inbound buffer, and the tick of its arrival with it. -/
def Crane.leaveBuffer (c : Crane) (b : Nat) : Crane :=
  { c with buffer := c.buffer.filter (· != b), arrivals := c.arrivals.filter (fun e => e.1 != b) }

/-- A bin leaves an aisle's port: the buffer and the overflow list. -/
def Crane.leavePort (c : Crane) (b : Nat) : Crane :=
  { c.leaveBuffer b with overflow := c.overflow.filter (· != b) }

/-- A station record. -/
def State.station (s : State) (st : StationNo) : Station := s.stu.stations[st]

/-- A position of a station. -/
def State.position (s : State) (st : StationNo) (p : Pos) : Position := (s.station st).positions[p]

/-- The lamp that goes with a station's attention flags (R109): OFF without attention; lit from `now`
when it enters BLINKING; otherwise as it was. It follows every write of the flags, so that an attention that
clears and sets again within one action starts a new phase (log 44 DESIGN CHOICE). -/
def lampFor (now : Tick) (on : Nat) (r : Station) : Lamp :=
  if r.positions.any (·.attention) then
    match r.lamp with
    | .off => .lit (now.after on)
    | l => l
  else .off

/-- A station record with the lamp that goes with its attention flags. -/
def Station.withLamp (r : Station) (now : Tick) (on : Nat) : Station :=
  { r with lamp := lampFor now on r }

/-- Writes a station record; its lamp follows its attention flags (R109). -/
def State.setStation (s : State) (st : StationNo) (r : Station) : State :=
  { s with stu.stations := s.stu.stations.set st (r.withLamp s.svp.tick s.rsc.settings.station.lampOn) }

/-- Writes a position of a station. -/
def State.setPosition (s : State) (st : StationNo) (p : Pos) (r : Position) : State :=
  s.setStation st { s.station st with positions := (s.station st).positions.set p r }

/-- A batch record in use. -/
def State.batch (s : State) (n : Nat) : Option Batch := Tab.find s.stu.batches n
/-- Writes a batch record. -/
def State.setBatch (s : State) (n : Nat) (r : Batch) : State :=
  { s with stu.batches := Tab.put s.stu.batches n r }

/-- A zone record. -/
def State.zone (s : State) (z : ZoneNo) : Zone := s.fiu.zones[z]
/-- Writes a zone record. -/
def State.setZone (s : State) (z : ZoneNo) (r : Zone) : State :=
  { s with fiu.zones := s.fiu.zones.set z r }

/-! ### Notices and outputs -/

/-- The limit of a 4-byte argument that is "none": every bit set (R191). -/
def noneArg : Nat := 4294967295

/-- Posts a notice (R195): it joins the tail, or is dropped and sets OVERRUN when the queue is full. -/
def State.post (s : State) (k : NoticeKind) (x y z : Nat) : State :=
  if s.svp.notices.length < Config.notices then
    { s with svp.notices := s.svp.notices ++ [{ kind := k, arg1 := x, arg2 := y, arg3 := z }] }
  else { s with svp.overrun := true }

/-- Sends an order on an aisle link (R83): it joins the trace of what was sent (log 27 DESIGN CHOICE). -/
def State.send (s : State) (a : Aisle) (o : LinkOrder) : State :=
  { s with outputs := s.outputs ++ [.order a o] }

/-- Sends the sorter a divert instruction (R163). -/
def State.sendDivert (s : State) (d : Divert) : State :=
  { s with outputs := s.outputs ++ [.divert d] }

/-- Sends the sorter a tray instruction (R163). -/
def State.sendTray (s : State) (acc : Nat) (p : Pos) (k : Fin 8) : State :=
  { s with outputs := s.outputs ++ [.tray acc p k] }

/-- A place: station and position in the two low bytes (section 11.8). -/
def placeArg (st : StationNo) (p : Pos) : Nat := st.val * 256 + p.val

/-- A place whose position is none (R113). -/
def placeNoPos (st : StationNo) : Nat := st.val * 256 + 255

/-- A crane position: level and column in the two low bytes (section 11.8). -/
def posArg (p : CranePos) : Nat := p.level.val * 256 + p.column.val

/-- Two values in the high and low halves (section 11.8). -/
def pairArg (x y : Nat) : Nat := x * 65536 + y

/-- A slot packed as a slot address (sections 11.1 and 11.8). -/
def slotArg (x : SlotAddr) : Nat :=
  ((x.aisle.val * 256 + (match x.side with | .left => 0 | .right => 1)) * 256 + x.level.val) * 256
    + x.column.val

/-- A bin number or none. -/
def binArg : Option Nat → Nat
  | some b => b
  | none => noneArg

/-! ### Answers -/

/-- What a request is answered with, but for its tag. -/
structure Reply where
  code : ResultCode
  clamped : Bool
  fields : List Field
deriving DecidableEq, Repr

/-- An answer with a result code and no fields. -/
def refuse (c : ResultCode) : Reply := { code := c, clamped := false, fields := [] }
/-- DONE with fields. -/
def doneWith (fs : List Field) : Reply := { code := .done, clamped := false, fields := fs }
/-- DONE, with the CLAMPED indication when a value was clamped. -/
def doneClamped (c : Bool) : Reply := { code := .done, clamped := c, fields := [] }

/-- Puts a response in the slot (R193). -/
def State.respond (s : State) (tag : Byte) (r : Reply) : State :=
  { s with svp.resp := some { tag := tag, code := r.code, clamped := r.clamped, fields := r.fields } }

/-- In which mount states a request is served (R194, R195, R196, R197, R200). -/
inductive Service where
  | mounted
  | exceptMounting
  | always
deriving DecidableEq, Repr

/-- The refusal a mount state gives before every other refusal of a request (R196, R200). -/
def Service.refusal : Service → MountState → Option ResultCode
  | .always, _ => none
  | _, .mounting => some .mounting
  | .mounted, .recordFault => some .recordFault
  | .exceptMounting, .recordFault => none
  | _, .mounted => none

/-- Serves one request frame (R192, R193, R196, R200). A frame that meets a full slot is discarded; tag
0 fails the framing; then the mount state is tested; then the length of the field list (log 13 DEDUCED);
then the request itself is served whole, and its answer fills the slot. -/
def serveAs (k : Service) (h : Hdr) (s : State) (body : State → State × Reply) : Out :=
  if s.svp.resp.isSome then .next s
  else if h.tag = 0 then .next (s.respond 0 (refuse .badFrame))
  else
    match k.refusal s.svp.mountState with
    | some c => .next (s.respond h.tag (refuse c))
    | none =>
      if h.lengthOk then .next ((body s).1.respond h.tag (body s).2)
      else .next (s.respond h.tag (refuse .badArgument))

/-- Serves a request that mount and a record fault refuse. -/
def serve (h : Hdr) (s : State) (body : State → State × Reply) : Out := serveAs .mounted h s body

/-- Refuses a request: every record stays as it was. -/
def refused (s : State) (c : ResultCode) : State × Reply := (s, refuse c)

/-! ### The work list of a command

An action frees queue places, job records, claim entries, lane and buffer places, and empties
positions. What the rules do at each of these (R52, R61, R48, R74, R106, R101, R171) is listed here while
the action makes its own changes, and carried out before the action ends (log 7 DESIGN CHOICE). -/

/-- What an action has left to be done. -/
structure Todo where
  /-- queue places freed, by aisle (R61) -/
  places : List Aisle
  /-- a job record was freed (R61) -/
  record : Bool
  /-- a job record was freed by an ending that freed no queue place (R61) -/
  lone : Bool
  /-- jobs of these aisles ended (R78) -/
  ended : List Aisle
  /-- a claim entry was freed (R48) -/
  claim : Bool
  /-- lanes that lost a bin (R74, R106, R108) -/
  lanes : List StationNo
  /-- stations at which a position was emptied (R106) -/
  emptied : List StationNo
  /-- aisles at which a port buffer place was freed (R101) -/
  buffers : List Aisle
  /-- bins that came to rest in a slot and have UNPLACED pages (R153) -/
  pages : List Nat
  /-- a PACED batch has an entry to release (R120) -/
  paced : Bool
  /-- the RIU chooses again (R171) -/
  choose : Bool
  /-- positions of S4 at which the fill release test is due (R172) -/
  tests : List Pos
deriving DecidableEq, Repr

/-- Nothing left to be done. -/
def Todo.none : Todo :=
  { places := [], record := false, lone := false, ended := [], claim := false, lanes := [], emptied := [],
    buffers := [], pages := [], paced := false, choose := false, tests := [] }

/-- A state within an action, with what is left to be done. -/
structure Work where
  st : State
  todo : Todo
deriving DecidableEq, Repr

/-- Begins an action. -/
def State.begin (s : State) : Work := { st := s, todo := Todo.none }

/-- Changes the state within an action. -/
def Work.on (w : Work) (f : State → State) : Work := { w with st := f w.st }

/-- Notes what an action has freed. -/
def Work.note (w : Work) (f : Todo → Todo) : Work := { w with todo := f w.todo }

/-- Applies a step to every element of a list in order. -/
def Work.each {α : Type} (w : Work) (l : List α) (f : Work → α → Work) : Work := l.foldl f w

/-- Applies a step to every element of a list in order. -/
def State.each {α : Type} (s : State) (l : List α) (f : State → α → State) : State := l.foldl f s

end Sys2Proof.Machine
end

