-- ==== Sys2Proof/Machine/Operands.lean ====
section
/-! DEFINITION. Reading the operands of a request: range tests, enumerated values (numbered from 0 in
the order their defining rule lists them, R191), accession numbers and clamped values. -/

namespace Sys2Proof.Machine

/-- An aisle number 0 to 3. -/
def aisle? (n : Nat) : Option Aisle := if h : n < 4 then some ⟨n, h⟩ else none
/-- A station number 0 to 5. -/
def station? (n : Nat) : Option StationNo := if h : n < 6 then some ⟨n, h⟩ else none
/-- A position number 0 or 1. -/
def pos? (n : Nat) : Option Pos := if h : n < 2 then some ⟨n, h⟩ else none
/-- A zone number 0 to 4. -/
def zone? (n : Nat) : Option ZoneNo := if h : n < 5 then some ⟨n, h⟩ else none
/-- A compartment number 0 to 7. -/
def compartment? (n : Nat) : Option (Fin 8) := if h : n < 8 then some ⟨n, h⟩ else none
/-- A borrower class 0 to 3 (R127). -/
def borrowerClass? (n : Nat) : Option (Fin 4) := if h : n < 4 then some ⟨n, h⟩ else none
/-- A side: 0 for L, 1 for R (R191). -/
def side? : Nat → Option Side
  | 0 => some .left
  | 1 => some .right
  | _ => none
/-- A height class: 1 standard, 2 tall. -/
def height? : Nat → Option Height
  | 1 => some .standard
  | 2 => some .tall
  | _ => none
/-- A climate class: 0 general, 1 climate. -/
def climate? : Nat → Option Climate
  | 0 => some .general
  | 1 => some .controlled
  | _ => none
/-- An item class (R23). -/
def itemClass? : Nat → Option ItemClass
  | 0 => some .general
  | 1 => some .short
  | 2 => some .ref
  | 3 => some .rare
  | _ => none

/-- A slot address, each part in range. -/
def slot? (x : RawSlot) : Option SlotAddr :=
  if hl : x.level < 24 then
    if hc : x.column < 96 then
      match aisle? x.aisle, side? x.side with
      | some a, some sd => some { aisle := a, side := sd, level := ⟨x.level, hl⟩, column := ⟨x.column, hc⟩ }
      | _, _ => none
    else none
  else none

/-- A bin number 0 to 16,383. -/
def binOk (n : Nat) : Bool := n < Config.bins

/-- A borrower token 1 to 16,777,215. -/
def tokenOk (n : Nat) : Bool := 1 ≤ n && n ≤ Config.maxToken

/-- A digit's value, for a character 30h to 39h (R25). -/
def digit? (c : Byte) : Option Nat :=
  if 48 ≤ c.toNat ∧ c.toNat ≤ 57 then some (c.toNat - 48) else none

/-- The number that characters spell in decimal, most significant digit first; none when one of them
is not a digit. -/
def digits? : List Byte → Nat → Option Nat
  | [], n => some n
  | c :: t, n => match digit? c with
    | some d => digits? t (n * 10 + d)
    | none => none

/-- An accession number: nine digit characters (R23, R26). -/
def accession? (cs : List Byte) : Option Nat := if cs.length = 9 then digits? cs 0 else none

/-- The nine ASCII digit codes of an accession number (R25). -/
def accessionChars (acc : Nat) : List Byte :=
  [100000000, 10000000, 1000000, 100000, 10000, 1000, 100, 10, 1].map
    (fun p => BitVec.ofNat 8 (48 + acc / p % 10))

/-- A value clamped to a range (00_scope, "Saturation"). -/
def clampTo (lo hi v : Nat) : Nat := if v < lo then lo else if hi < v then hi else v

/-- A value lies outside a range, so that clamping changes it. -/
def outside (lo hi v : Nat) : Bool := v < lo || hi < v

/-- A priority above 3 is clamped to 3 (R19, R117, R119). -/
def clampPriority (p : Nat) : Nat := clampTo 0 3 p

end Sys2Proof.Machine
end

