-- ==== Sys2Proof/Machine/Flags.lean ====
section
/-! DEFINITION. What is derived from the state and not held: authority, activity of zones, the
conditions under which a crane may be sent an order, states of stations, supervision, and the status
word. -/

namespace Sys2Proof.Machine

/-- The authority state, derived from the two claims (R186). -/
def State.authority (s : State) : Authority :=
  match s.fiu.libraryClaim, s.fiu.buildingClaim with
  | true, false => .library
  | true, true => .handover
  | false, true => .building
  | false, false => .vacant

/-- A zone is active while one of its filtered levels ALARM, FAULT, PRE and DIS is active (R175). -/
def Zone.isActive (z : Zone) : Bool :=
  z.lines.alarm.filtered || z.lines.fault.filtered || z.lines.pre.filtered || z.lines.dis.filtered

/-- The zone of an aisle is NORMAL. -/
def State.zoneNormal (s : State) (a : Aisle) : Bool := (s.zone a.zone).state = .normal

/-- Zone Z4 is NORMAL. -/
def State.frontNormal (s : State) : Bool := (s.zone frontEnd).state = .normal

/-- The discharge latch of an aisle (R182). -/
def State.latched (s : State) (a : Aisle) : Bool := (s.zone a.zone).latch

/-- The conditions without which no crane is sent RETRIEVE, STORE, SHIFT, VERIFY or WAKE (R76). -/
def State.canOrder (s : State) (a : Aisle) : Bool :=
  s.zoneNormal a && !s.latched a && s.authority = .library && !s.fiu.lapsed

/-- A crane's parked flag: set while the state is PARKED (R81). -/
def Crane.parkedFlag (c : Crane) : Bool := c.state = .parked

/-- A crane is available for selection (R82). -/
def Crane.available (c : Crane) : Bool := c.state = .idle || c.state = .resting

/-- A crane holds an order for a job while BUSY, WAKING or ABORTING (R63, R82). -/
def CraneState.holdsOrder : CraneState → Bool
  | .busy | .waking | .aborting => true
  | _ => false

/-- A station is OPEN. -/
def Station.isOpen (r : Station) : Bool := r.state = .normal .opened

/-- A station is in FIRE_HOLD. -/
def Station.inHold (r : Station) : Bool :=
  match r.state with
  | .fireHold _ => true
  | .normal _ => false

/-- The lane and both positions are empty (R106); an UNKNOWN position is not empty. -/
def Station.isClear (r : Station) : Bool :=
  r.lane.isEmpty && r.positions.all (·.content = .empty)

/-- Stations to which no climate-1 bin is brought: S0, S1, S2 and S4 (R8). -/
def noControlled (st : StationNo) : Bool := st.val < 3 || st.val = 4

/-- Stations to which no climate-1 bin is fetched: S0, S1 and S2 (R117). -/
def pickStation (st : StationNo) : Bool := st.val < 3

/-- The fill station S4. -/
def fillStation : StationNo := 4
/-- The service station S5. -/
def serviceStation : StationNo := 5

/-- Supervision runs while the library claim is set and the period is not 0 (R187). -/
def State.supervised (s : State) : Bool :=
  s.fiu.libraryClaim && s.rsc.settings.interlock.supervision != 0

/-- The attention line is asserted while the notice queue holds a notice (R195). -/
def State.attentionLine (s : State) : Bool := !s.svp.notices.isEmpty

/-- Ticks of a residence limit given in minutes (R115). -/
def minutes (n : Nat) : Nat := 6000 * n
/-- Ticks of a time given in seconds. -/
def seconds (n : Nat) : Nat := 100 * n

/-- A station's residence limit in ticks; that of S4 is the fill residence (R115). -/
def State.residenceTicks (s : State) (st : StationNo) : Nat :=
  minutes s.rsc.settings.station.residence[st]

/-- A bin may rest in a slot of these classes (R8). -/
def fits (r : Bin) (x : Slot) : Bool :=
  r.climate = x.climate && (r.height = .standard || x.height = .tall)

/-- The climate class an item's class requires of its bin (R24). -/
def ItemClass.climate : ItemClass → Climate
  | .rare => .controlled
  | _ => .general

/-- GENERAL and SHORT items are lendable, holdable and returnable by scan (R24). -/
def ItemClass.lendable : ItemClass → Bool
  | .general | .short => true
  | .ref | .rare => false

/-- Oldest first: a tick's rank in an order of age, the older the lower (log 28 DEDUCED). -/
def ageRank (now t : Tick) : Nat := 4294967295 - t.age now

/-! ### Codes of enumerated values (R191: numbered from 0 in the order their rule lists them) -/

/-- Zone states (R175). -/
def ZoneState.code : ZoneState → Nat
  | .normal => 0 | .securing => 1 | .secured => 2 | .discharged => 3 | .standby => 4
/-- Authority states (R186, R194). -/
def Authority.code : Authority → Nat
  | .library => 0 | .handover => 1 | .building => 2 | .vacant => 3
/-- Crane states (R81). -/
def CraneState.code : CraneState → Nat
  | .down => 0 | .idle => 1 | .busy => 2 | .aborting => 3 | .parking => 4 | .parked => 5
  | .resting => 6 | .waking => 7 | .halted => 8
/-- A crane fault as the notice packs it: the fault, and the drive's kind or 0 (section 11.8). -/
def CraneFault.arg : CraneFault → Nat
  | .none => pairArg 0 0 | .noAccept => pairArg 1 0 | .noReady => pairArg 2 0
  | .timeout => pairArg 3 0 | .driveRestart => pairArg 4 0 | .drive k => pairArg 5 k.toNat
/-- Reasons of a stopped queue (R63). -/
def StopReason.code : StopReason → Nat
  | .host => 0 | .overfill => 1 | .latch => 2
/-- Mount states (R194). -/
def MountState.code : MountState → Nat
  | .mounting => 0 | .mounted => 1 | .recordFault => 2
/-- The long-operation field (R194). -/
def longOpCode : Option LongOp → Nat
  | none => 0 | some .turnover => 1 | some .audit => 2 | some .mount => 3
/-- A flag as a bit. -/
def bit (b : Bool) : Nat := if b then 1 else 0

/-- The status word (R194). -/
def State.statusWord (s : State) : Nat :=
  s.svp.mountState.code
    + longOpCode s.svp.longOp * 4
    + s.authority.code * 16
    + bit s.fiu.lapsed * 64
    + bit s.attentionLine * 128
    + bit s.svp.overrun * 256
    + (s.zone 0).state.code * 512
    + (s.zone 1).state.code * 4096
    + (s.zone 2).state.code * 32768
    + (s.zone 3).state.code * 262144
    + (s.zone 4).state.code * 2097152
    + bit ((s.queue 0).state = .running) * 16777216
    + bit ((s.queue 1).state = .running) * 33554432
    + bit ((s.queue 2).state = .running) * 67108864
    + bit ((s.queue 3).state = .running) * 134217728

end Sys2Proof.Machine
end

