-- ==== Sys2Proof/Machine/Frames.lean ====
section
/-! DEFINITION. The label check and the frame check (R25, R192), the framing tests (R192), the coding of
results and notices (sections 11.7 and 11.8), the fields of answers, and the bytes of a response
frame (R191). -/

namespace Sys2Proof.Machine

/-- One advance of the remainder: shift left, and exclusive OR with 1021h when the most significant
bit was 1 (R25). -/
def crcAdvance (r : BitVec 16) : BitVec 16 :=
  if r.msb then (r <<< 1) ^^^ 0x1021#16 else r <<< 1

/-- `n` advances. -/
def crcAdvances : Nat → BitVec 16 → BitVec 16
  | 0, r => r
  | n + 1, r => crcAdvances n (crcAdvance r)

/-- One byte: exclusive OR into the upper eight bits, then eight advances (R25). -/
def crcByte (r : BitVec 16) (c : Byte) : BitVec 16 := crcAdvances 8 (r ^^^ (c ++ 0#8))

/-- The check over a list of bytes, from the initial value FFFFh (R25, R192). -/
def crc (cs : List Byte) : BitVec 16 := cs.foldl crcByte 0xFFFF#16

/-- The accession number of a valid label: nine digits whose check agrees (R26). -/
def label? (cs : List Byte) (check : BitVec 16) : Option Nat :=
  match accession? cs with
  | some acc => if crc cs = check then some acc else none
  | none => none

/-- The value of a result code (section 11.7). -/
def ResultCode.code : ResultCode → Nat
  | .done => 0x00 | .started => 0x01 | .badFrame => 0x02 | .unknownRequest => 0x03
  | .badArgument => 0x04 | .mounting => 0x05 | .recordFault => 0x06 | .busy => 0x07
  | .noAuthority => 0x08 | .notSupervised => 0x09 | .epoch => 0x0A | .buildingHolds => 0x0B
  | .notAtDesk => 0x0C
  | .noSlot => 0x10 | .slotNotFree => 0x11 | .occupied => 0x12 | .badAttribute => 0x13
  | .notPermitted => 0x14 | .binInUse => 0x15 | .positionNotFree => 0x16 | .notPresented => 0x17
  | .notEmpty => 0x18 | .claimed => 0x19 | .notUncertain => 0x1A | .notUnknown => 0x1B
  | .notShelved => 0x1C | .notAtStation => 0x1D | .noBin => 0x1E | .climate => 0x1F
  | .noRoom => 0x20 | .noJob => 0x21 | .notCancellable => 0x22 | .active => 0x23
  | .latched => 0x24 | .zone => 0x25 | .notHalted => 0x26 | .jobActive => 0x27
  | .loadMismatch => 0x28 | .notAtPort => 0x29 | .notStandby => 0x2A | .inProgress => 0x2B
  | .otherAisle => 0x2C | .blocked => 0x2D | .unknownItem => 0x2E | .onLoan => 0x2F
  | .queueFull => 0x30 | .claimsFull => 0x31 | .stationClosed => 0x32 | .binUncertain => 0x33
  | .unknownBin => 0x34 | .fireHold => 0x35 | .notStored => 0x36 | .owned => 0x37
  | .batchFull => 0x38 | .noBatch => 0x39 | .notActive => 0x3A | .unknown => 0x3B
  | .tableFull => 0x3C | .limit => 0x3D | .notLoanable => 0x3E | .heldForOther => 0x3F
  | .holds => 0x40 | .recalled => 0x41 | .noExtension => 0x42 | .notOnLoan => 0x43
  | .outOfWindow => 0x44 | .closedRun => 0x45 | .backward => 0x46 | .noListing => 0x47
  | .notHoldable => 0x48 | .duplicate => 0x49 | .ownLoan => 0x4A | .poolFull => 0x4B
  | .noHold => 0x4C | .notInTray => 0x4D | .badLabel => 0x4E | .mapFull => 0x4F

/-- The value of a notice kind (section 11.8). -/
def NoticeKind.code : NoticeKind → Nat
  | .mountDone => 0x01 | .recordFault => 0x02 | .zone => 0x03 | .authority => 0x04
  | .supervisionLapse => 0x05 | .craneUnparked => 0x06 | .shutterFault => 0x07
  | .craneFault => 0x08 | .linkError => 0x09 | .lateDone => 0x0A | .orphanDone => 0x0B
  | .aisleStopped => 0x0C | .auditDone => 0x0D | .portMisroute => 0x0E | .portUnreadable => 0x0F
  | .portOverfill => 0x10 | .verifyConflict => 0x11 | .binFound => 0x12 | .misrouted => 0x13
  | .positionUnknown => 0x14 | .positionConflict => 0x15 | .fetchArrived => 0x16
  | .fetchFailed => 0x17 | .residence => 0x18 | .releaseRefused => 0x19 | .stationDrained => 0x1A
  | .batchDone => 0x1B | .pageReady => 0x1C | .holdReady => 0x1D | .holdExpired => 0x1E
  | .holdCancelled => 0x1F | .recalled => 0x20 | .returned => 0x21 | .turnoverDone => 0x22
  | .foundElsewhere => 0x23 | .itemFound => 0x24 | .returnException => 0x25

/-! ### Fields of answers -/

/-- The bytes of a number, high byte first (R191). -/
def beBytes : Nat → Nat → List Byte
  | 0, _ => []
  | w + 1, v => BitVec.ofNat 8 (v / 256 ^ w) :: beBytes w v

/-- The bytes of a field. -/
def Field.bytes : Field → List Byte
  | .num w v => beBytes w v
  | .absent w => List.replicate w 0xFF#8
  | .chars cs => cs

/-- A number of one byte. -/
def u8 (v : Nat) : Field := .num 1 v
/-- A number of two bytes. -/
def u16 (v : Nat) : Field := .num 2 v
/-- A token: three bytes (R191). -/
def u24 (v : Nat) : Field := .num 3 v
/-- A number of four bytes. -/
def u32 (v : Nat) : Field := .num 4 v
/-- A tick: four bytes (R191). -/
def tickField (t : Tick) : Field := .num 4 t.toNat
/-- A flag, in one byte (log 9 DESIGN CHOICE). -/
def flagField (b : Bool) : Field := u8 (bit b)
/-- An optional number: absent has every bit set (R191). -/
def optField (w : Nat) : Option Nat → Field
  | some v => .num w v
  | none => .absent w
/-- An optional tick. -/
def optTick : Option Tick → Field
  | some t => tickField t
  | none => .absent 4
/-- An accession number: its nine digit codes (R191). -/
def accField (acc : Nat) : Field := .chars (accessionChars acc)
/-- A slot address: four bytes (R191). -/
def slotField (x : SlotAddr) : Field := .num 4 (slotArg x)
/-- An optional slot address. -/
def optSlot : Option SlotAddr → Field
  | some x => slotField x
  | none => .absent 4
/-- A list of variable length: a count byte, then its members (log 9 DESIGN CHOICE). -/
def listFields {α : Type} (l : List α) (f : α → List Field) : List Field :=
  u8 l.length :: l.flatMap f
/-- Outcome values carried in answers, coded in the order section 11.7 lists them. -/
inductive OutcomeValue where
  | alreadyThere | onItsWay | queued | claimed | transferred | storing | recalled | paged | ready
  | none | more | fin
deriving DecidableEq, Repr

/-- The code of an outcome value (section 11.7). -/
def OutcomeValue.code : OutcomeValue → Nat
  | .alreadyThere => 0 | .onItsWay => 1 | .queued => 2 | .claimed => 3 | .transferred => 4
  | .storing => 5 | .recalled => 6 | .paged => 7 | .ready => 8 | .none => 9 | .more => 10 | .fin => 11

/-- An outcome value as a field. -/
def outcomeField (o : OutcomeValue) : Field := u8 o.code

/-! ### Frames -/

/-- What a response frame holds from the tag on: tag, result code, indications, fields (R191). -/
def Response.content (r : Response) : List Byte :=
  r.tag :: BitVec.ofNat 8 r.code.code :: BitVec.ofNat 8 (bit r.clamped) :: r.fields.flatMap Field.bytes

/-- The bytes of a response frame: sync A5h, length, content, frame check (R191, R192). Content that
does not fit the length byte's range is framed in a way the manual does not give (log 10 DESIGN CHOICE). -/
def Response.frame (r : Response) : List Byte :=
  if r.content.length ≤ 250 then
    let body := BitVec.ofNat 8 r.content.length :: r.content
    0xA5#8 :: body ++ beBytes 2 (crc body).toNat
  else Config.overlongFrame r.content

/-- The bytes an empty slot is read as (R193). -/
def emptyRead : List Byte := [0xA5#8, 0x00#8]

/-- The framing tests of a request frame (R192): sync 5Ah; length 2 to 250 and exactly n + 4 bytes;
frame check; tag not 0. -/
def frameOk (f : List Byte) : Bool :=
  match f with
  | sync :: len :: rest =>
    sync = 0x5A#8 && 2 ≤ len.toNat && len.toNat ≤ 250 && f.length = len.toNat + 4 &&
      rest.drop len.toNat = beBytes 2 (crc (len :: rest.take len.toNat)).toNat &&
      rest.head? != some 0#8
  | _ => false

end Sys2Proof.Machine
end

