-- ==== Sys2Proof/Machine/Search.lean ====
section
/-! DEFINITION. The travel estimate (R12, R69), the slot search in its two forms (R11, R13), reservations
(R3), and storing and lifting a bin with both records written together (R2). -/

namespace Sys2Proof.Machine

/-- The aisle port, level 0 and column 0. -/
def portPos : CranePos := { level := 0, column := 0 }

/-- The park position, level 0 and column 95. -/
def parkPos : CranePos := { level := 0, column := 95 }

/-- The start-up figure and per-step figure of one axis: nothing when it does not move (R69). -/
def axisTravel (start step d : Nat) : Nat := if d = 0 then 0 else start + step * d

/-- The absolute difference. -/
def absDiff (m n : Nat) : Nat := (m - n) + (n - m)

/-- The travel estimate between two positions of an aisle with a penalty, saturated (R69). -/
def travelWith (d : DispatchSettings) (penalty : Nat) (p q : CranePos) : Nat :=
  let th := axisTravel d.ah d.bh (absDiff p.column.val q.column.val)
  let tv := axisTravel d.av d.bv (absDiff p.level.val q.level.val)
  min (max th tv + penalty) Config.maxTravel

/-- The travel estimate without penalty (R69, R73). -/
def travel (d : DispatchSettings) (p q : CranePos) : Nat := travelWith d 0 p q

/-- The cost of a candidate slot: the travel from the port (R12). -/
def State.slotCost (s : State) (x : SlotAddr) : Nat :=
  travel s.rsc.settings.dispatch portPos x.pos

/-- The conditions of R11 but for the height class. -/
def candidate (c : Climate) (r : Slot) : Bool :=
  r.state = .free && r.held.isNone && !r.blocked && r.climate = c

/-- Of two results the cheaper; the first when they cost the same. -/
def cheaper (best : Option (SlotAddr × Nat)) (x : SlotAddr) (cost : Nat) : Option (SlotAddr × Nat) :=
  match best with
  | none => some (x, cost)
  | some (y, c) => if cost < c then some (x, cost) else some (y, c)

/-- The cheapest candidate of one height class among the slots at some places of an aisle's order;
equal costs fall to the earlier place: lower level, lower column, L before R (R12). -/
def State.bestOf (s : State) (a : Aisle) (h : Height) (c : Climate) (places : List Nat) :
    Option (SlotAddr × Nat) :=
  places.foldl (fun best i =>
    let x := SlotAddr.ofIndex a i
    let r := s.slot x
    if candidate c r && r.height = h then cheaper best x (s.slotCost x) else best) none

/-- The best slot of an aisle and its cost: a standard bin looks at tall slots only when the aisle has
no standard candidate, a tall bin never looks at standard ones (R11). -/
def State.bestInAisle (s : State) (h : Height) (c : Climate) (a : Aisle) : Option (SlotAddr × Nat) :=
  match s.bestOf a h c (List.range Config.slotsPerAisle) with
  | some r => some r
  | none =>
    match h with
    | .standard => s.bestOf a .tall c (List.range Config.slotsPerAisle)
    | .tall => none

/-- An aisle that a wing search may use: zone NORMAL, latch clear, in service (R6, R13). -/
def State.searchable (s : State) (a : Aisle) : Bool :=
  s.zoneNormal a && !s.latched a && s.rsc.inService[a]

/-- The better of two aisles' results: lower cost, then fewer jobs in the queue, then the earlier
(lower) aisle (R13). -/
def State.betterAisle (s : State) (best : Option (SlotAddr × Nat)) (r : SlotAddr × Nat) :
    Option (SlotAddr × Nat) :=
  match best with
  | none => some r
  | some (y, c) =>
    if r.2 < c then some r
    else if r.2 = c ∧ (s.queue r.1.aisle).jobs.length < (s.queue y.aisle).jobs.length then some r
    else some (y, c)

/-- The wing search over a list of aisles in rising order (R13). -/
def State.wingSearch (s : State) (h : Height) (c : Climate) (as : List Aisle) :
    Option (SlotAddr × Nat) :=
  (as.filter s.searchable).foldl (fun best a =>
    match s.bestInAisle h c a with
    | some r => s.betterAisle best r
    | none => best) none

/-- The aisle search: no aisle is removed (R13). -/
def State.aisleSearch (s : State) (h : Height) (c : Climate) (a : Aisle) : Option SlotAddr :=
  (s.bestInAisle h c a).map Prod.fst

/-- Releases the reservation a bin holds: the slot becomes FREE and the field is removed (R3). -/
def State.releaseReservation (s : State) (b : Nat) : State :=
  match (s.bin b).state.reserved? with
  | some _ => s.setBinState b ((s.bin b).state.withReserved none)
  | none => s

/-- The bin that a slot's state names (R1). -/
def SlotState.bin? : SlotState → Option Nat
  | .occupied b => some b
  | .reserved b => some b
  | .free => none

/-- A slot takes a bin: it is FREE or names that bin; a slot that another bin occupies or has reserved takes no
other (R3). -/
def SlotState.takes (b : Nat) (q : SlotState) : Bool := q.bin?.all (· = b)

/-- Reserves a slot for a bin in a state that holds a reservation; its earlier reservation of another slot is
released (R3). -/
def State.reserve (s : State) (b : Nat) (x : SlotAddr) : State :=
  let next := (s.bin b).state.withReserved (some x)
  if next.reserved? = some x ∧ (s.slot x).state.takes b then
    (s.setSlotState x (.reserved b)).setBinState b next
  else s

/-- Makes a bin STORED in a slot and the slot OCCUPIED naming it, in one action; a reservation of the
slot is consumed (R2). -/
def State.storeBin (s : State) (b : Nat) (x : SlotAddr) : State :=
  if (s.slot x).state.takes b then (s.setSlotState x (.occupied b)).setBinState b (.stored x) else s

/-- Releases the destination hold of a SHIFT job, if the slot still names the job (R4). -/
def State.releaseHold (s : State) (j : Nat) (d : JobDest) : State :=
  match d with
  | .slot x => if (s.slot x).held = some j then s.setHeld x none else s
  | _ => s

end Sys2Proof.Machine
end

