-- ==== Sys2Proof/Machine/Selection.lean ====
section
/-! DEFINITION. Crane states and orders, eligibility, merit and selection (R63, R67 to R76, R82, R83, R87,
R95), and the creation of jobs (R58). -/

namespace Sys2Proof.Machine

/-! ### Crane states -/

/-- A queue becomes STOPPED with a reason; AISLE_STOPPED is posted when it reaches STOPPED from STOPPING (R63, R64,
log 22 DEDUCED). -/
def State.stopQueue (s : State) (a : Aisle) (why : Option StopReason) : State :=
  let s1 := s.setQueue a { s.queue a with state := .stopped, reason := why }
  if (s.queue a).state = .stopping then s1.post .aisleStopped a.val ((why.map StopReason.code).getD noneArg) 0
  else s1

/-- Moves a crane to a state. A STOPPING queue becomes STOPPED when its crane leaves BUSY, WAKING and
ABORTING (R63); the rest timer stops when the crane leaves IDLE (R96). -/
def State.setCraneState (s : State) (a : Aisle) (st : CraneState) : State :=
  let c := s.crane a
  let s1 := s.setCrane a { c with state := st, restTimer := if st = .idle then c.restTimer else none }
  if c.state.holdsOrder && !st.holdsOrder && (s1.queue a).state = .stopping then
    s1.stopQueue a (s1.queue a).reason
  else s1

/-- Where a crane is taken to be: its position, or the park position when unknown (R69, R81). -/
def Crane.at (c : Crane) : CranePos := c.position.getD parkPos

/-- The tag after a crane's last one: 255 is followed by 1 (R83). -/
def nextTag (last : Byte) : Byte := if last = 255 then 1 else last + 1

/-! ### Orders -/

/-- The slot a job names as its source. -/
def Job.sourceSlot? (r : Job) : Option SlotAddr :=
  match r.source with
  | .slot x => some x
  | _ => none

/-- The slot a job names as its destination. -/
def Job.destSlot? (r : Job) : Option SlotAddr :=
  match r.dest with
  | .slot x => some x
  | _ => none

/-- The station a job names as its destination. -/
def Job.destStation? (r : Job) : Option StationNo :=
  match r.dest with
  | .station t => some t
  | _ => none

/-- The order that carries a job of each kind (R57). -/
def JobKind.order : JobKind → OrderKind
  | .fetch => .retrieve
  | .putaway => .store
  | .shift => .shift
  | .verify => .verify
  | .putback => .store

/-- The resume order of a job of each kind (R95). -/
def JobKind.resumeOrder : JobKind → OrderKind
  | .fetch => .retrieve
  | _ => .store

/-- The message of an order (R83). -/
def orderMessage (k : OrderKind) (bin : Nat) (src dst : Option SlotAddr) (loaded : Bool) (tag : Byte) :
    LinkOrder :=
  match k with
  | .retrieve => .retrieve bin src loaded tag
  | .store => .store bin dst loaded tag
  | .shift => .shift bin src dst tag
  | .verify => .verify src tag

/-- The travel of a leg to or from a slot. -/
def legTravel (d : DispatchSettings) (p : CranePos) (x : Option SlotAddr) : Nat :=
  match x with
  | some y => travel d p y.pos
  | none => 0

/-- The time of an order in ds: its legs, its handlings and the margin (R73, R95). -/
def orderTime (d : DispatchSettings) (k : OrderKind) (loaded : Bool) (p : CranePos)
    (src dst : Option SlotAddr) : Nat :=
  (match k, loaded with
    | .retrieve, false => legTravel d p src + legTravel d portPos src + 2 * d.handling
    | .retrieve, true => travel d p portPos + d.handling
    | .store, false => travel d p portPos + legTravel d portPos dst + 2 * d.handling
    | .store, true => legTravel d p dst + d.handling
    | .shift, _ =>
      legTravel d p src + (match src with | some x => legTravel d x.pos dst | none => 0)
        + 2 * d.handling
    | .verify, _ => legTravel d p src + d.handling)
  + d.margin

/-- Sends a crane a job order: a new tag, the order recorded with its deadline, the accept timer, the
crane BUSY (R73, R87). -/
def State.sendJobOrder (s : State) (a : Aisle) (j : Nat) (k : OrderKind) (bin : Nat)
    (src dst : Option SlotAddr) (loaded : Bool) : State :=
  let c := s.crane a
  let tag := nextTag c.lastTag
  let deadline := s.svp.tick.after (10 * orderTime s.rsc.settings.dispatch k loaded c.at src dst)
  let order : Order :=
    { kind := k, tag := tag, job := some j, slot := src, deadline := deadline, loaded := loaded,
      picked := false, accepted := false }
  let s1 := s.setCrane a
    { c with order := some order, lastTag := tag, restOutstanding := false,
             acceptTimer := some (s.svp.tick.after Config.linkTimer) }
  (s1.setCraneState a .busy).send a (orderMessage k bin src dst loaded tag)

/-- Sends the order of a job as R57 gives it: loaded for a PUTBACK. -/
def State.sendOrderFor (s : State) (a : Aisle) (j : Nat) (r : Job) : State :=
  s.sendJobOrder a j r.kind.order r.bin r.sourceSlot? r.destSlot? (r.kind = .putback)

/-- Sends the held resume order and removes the record (R95). -/
def State.sendResume (s : State) (a : Aisle) (j : Nat) (r : Job) : State :=
  let s1 := s.setCrane a { s.crane a with resume := none }
  s1.sendJobOrder a j r.kind.resumeOrder r.bin r.sourceSlot? (s.bin r.bin).state.reserved? true

/-- Sends WAKE with the ready timer; the crane becomes WAKING, for a selected job or for none (R75, R86,
R99). -/
def State.sendWake (s : State) (a : Aisle) (selected : Option Nat) : State :=
  let s1 := s.setCrane a
    { s.crane a with selected := selected, readyTimer := some (s.svp.tick.after Config.linkTimer) }
  (s1.setCraneState a .waking).send a .wake

/-- Sends PARK; the crane becomes PARKING and rest outstanding is cleared (R97). -/
def State.sendPark (s : State) (a : Aisle) : State :=
  let s1 := s.setCrane a { s.crane a with restOutstanding := false }
  (s1.setCraneState a .parking).send a .park

/-! ### Eligibility and merit -/

/-- The condition of a job's kind (R68). `own` says that a lane place the job itself holds is
ignored (R76). -/
def State.kindEligible (s : State) (j : Nat) (r : Job) (own : Bool) : Bool :=
  let b := s.bin r.bin
  let storedHere := b.state.storedAt?.isSome && b.owner = .job j
  match r.kind with
  | .fetch =>
    match r.dest with
    | .station t =>
      let lane := (s.station t).lane
      let others := if own then lane.filter (· != r.bin) else lane
      storedHere && (s.station t).isOpen && others.length < Config.lanePlaces && s.frontNormal
    | _ => false
  | .putaway => true
  | .shift => storedHere
  | .verify => storedHere
  | .putback => b.state.reserved?.isSome

/-- The conditions common to the jobs of an aisle, but for the crane's state (R67). -/
def State.commonConditions (s : State) (a : Aisle) : Bool :=
  (s.queue a).state = .running && s.canOrder a

/-- The priority a job carries into merit (R70). -/
def State.meritPriority (s : State) (a : Aisle) (r : Job) : Nat :=
  match r.kind with
  | .putaway => if (s.crane a).buffer.length = Config.bufferPlaces then 3 else 2
  | _ => r.priority

/-- The target of a job's first leg (R57). -/
def State.firstLeg (s : State) (a : Aisle) (r : Job) : CranePos :=
  match r.kind with
  | .putaway => portPos
  | .putback => (s.crane a).at
  | _ => match r.sourceSlot? with
    | some x => x.pos
    | none => (s.crane a).at

/-- The merit of a job at a selection: P + G - W (R71). -/
def State.merit (s : State) (a : Aisle) (r : Job) : Int :=
  let d := s.rsc.settings.dispatch
  let c := s.crane a
  let p := 200 * s.meritPriority a r
  let g := min 250 (r.enqueued.age s.svp.tick / 100 / d.ageStep)
  let penalty := if c.state = .resting then d.wake else 0
  let w := travelWith d penalty c.at (s.firstLeg a r) * d.wt / 8
  (p : Int) + (g : Int) - (w : Int)

/-- Gives each waiting PUTBACK of the queue whose bin holds no reservation an aisle search, and reserves
the slot found (R68). -/
def State.reservePutbacks (s : State) (a : Aisle) : State :=
  s.each (s.queue a).jobs (fun s j =>
    match s.job j with
    | some r =>
      if r.kind = .putback && !r.active && (s.bin r.bin).state.reserved?.isNone then
        match s.aisleSearch (s.bin r.bin).height (s.bin r.bin).climate a with
        | some x => (s.reserve r.bin x).modJob j (fun q => { q with dest := .slot x })
        | none => s
      else s
    | none => s)

/-- The job of highest merit among the eligible QUEUED jobs; of equals the one nearer the head
(R71, R75). -/
def State.bestJob (s : State) (a : Aisle) : Option (Nat × Job) :=
  ((s.queue a).jobs.foldl (fun (best : Option (Nat × Job × Int)) j =>
    match s.job j with
    | some r =>
      if !r.active && s.kindEligible j r false then
        match best with
        | none => some (j, r, s.merit a r)
        | some (i, q, m) => if m < s.merit a r then some (j, r, s.merit a r) else some (i, q, m)
      else best
    | none => best) none).map (fun e => (e.1, e.2.1))

/-- A bin joins the tail of a lane (R75, R108). -/
def State.laneJoin (s : State) (t : StationNo) (b : Nat) : State :=
  s.setStation t { s.station t with lane := (s.station t).lane ++ [b] }

/-- The selected job becomes ACTIVE and a FETCH takes its lane place (R75, steps 1 and 2). -/
def State.activate (s : State) (j : Nat) (r : Job) : State :=
  let s1 := s.modJob j (fun q => { q with active := true })
  match r.kind, r.dest with
  | .fetch, .station t => s1.laneJoin t r.bin
  | _, _ => s1

/-- A selection of an aisle, or the test of its resume order (R74, R75, R95). Nothing happens unless the
crane is IDLE or RESTING. -/
def State.selectAisle (s : State) (a : Aisle) : State :=
  let c := s.crane a
  if !c.available then s
  else
    match c.resume with
    | some j =>
      match s.job j with
      | some r => if c.state = .idle && s.canOrder a then s.sendResume a j r else s
      | none => s
    | none =>
      if s.commonConditions a then
        let s1 := s.reservePutbacks a
        match s1.bestJob a with
        | none => s1
        | some (j, r) =>
          let s2 := s1.activate j r
          if c.state = .idle then s2.sendOrderFor a j r else s2.sendWake a (some j)
      else s

/-- A selection in every aisle, in rising order of aisle (R74, log 8 DESIGN CHOICE). -/
def State.selectAll (s : State) : State := s.each allAisles State.selectAisle

/-- A FETCH bound for a station waits in an aisle's queue. -/
def State.hasFetchFor (s : State) (t : StationNo) (a : Aisle) : Bool :=
  (s.queue a).jobs.any (fun j =>
    match s.job j with
    | some r => r.kind = .fetch && r.dest = .station t
    | none => false)

/-- A selection in every aisle that holds a FETCH bound for a station (R74, R108). -/
def State.selectFor (s : State) (t : StationNo) : State :=
  s.each (allAisles.filter (s.hasFetchFor t)) State.selectAisle

/-! ### Creation of jobs -/

/-- The job numbers in the order the DSP tries them: rising, from the one after the last allocated,
returning to 0 after 127 (R58). -/
def jobTries (last : Nat) : List Nat :=
  (List.range Config.jobs).map (fun i => (last + 1 + i) % Config.jobs)

/-- The record a new job takes (R58). -/
def State.freeJob (s : State) : Option Nat :=
  (jobTries s.dsp.lastJob).find? (fun j => (s.job j).isNone)

/-- Takes a record for a job (R58, steps 1 and 2). -/
def State.takeRecord (s : State) (j : Nat) (r : Job) : State :=
  { s.setJob j r with dsp.lastJob := j }

/-- Appends a job at the tail of its aisle's queue (R58, step 3). -/
def State.enqueue (s : State) (a : Aisle) (j : Nat) : State :=
  s.setQueue a { s.queue a with jobs := (s.queue a).jobs ++ [j] }

/-- Creates a QUEUED job that owns its bin; none when its queue or the job table is full (R58). The
selection that follows an appending (R74) is the creating rule's next step. -/
def State.newJob (s : State) (a : Aisle) (r : Job) : Option (State × Nat) :=
  match s.freeJob with
  | some j =>
    if s.queueRoom a then some (((s.takeRecord j r).setOwner r.bin (.job j)).enqueue a j, j) else none
  | none => none

/-- A new FETCH of a STORED bin (R42, R57). -/
def fetchJob (b : Nat) (x : SlotAddr) (t : StationNo) (prio : Nat) (enq : Tick) (o : Origin) : Job :=
  { kind := .fetch, aisle := some x.aisle, bin := b, source := .slot x, dest := .station t,
    priority := prio, enqueued := enq, origin := o, active := false }

end Sys2Proof.Machine
end

