-- ==== Sys2Proof/Machine/Claims.lean ====
section
/-! DEFINITION. The claim table (R45 to R47), the decision between a job and a claim (R42), the end of a job
(R44, R61), the return of a job to QUEUED (R75), and lanes (R108). -/

namespace Sys2Proof.Machine

/-! ### The claim table -/

/-- The claims on a bin, oldest first (R45). -/
def State.claimsOn (s : State) (b : Nat) : List Claim := s.clu.claims.filter (·.bin = b)

/-- The oldest claim on a bin. -/
def State.oldestClaim (s : State) (b : Nat) : Option Claim := s.clu.claims.find? (·.bin = b)

/-- Removes a claim: the first entry equal to it. -/
def State.removeClaim (s : State) (c : Claim) : State :=
  { s with clu.claims := s.clu.claims.erase c }

/-- The origin that a claimant's job has (R49, R50). -/
def Claimant.origin : Claimant → Origin
  | .single => .single
  | .batch b e => .batch b e
  | .fill => .fill
  | .page h => .page h

/-- What the CLU decided about a fetch (R42, R46). -/
inductive Fetched where
  | job (j : Nat)
  | claim (ahead : Nat)
  | queueFull
  | claimsFull
  | unavailable
deriving DecidableEq, Repr

/-- Places a claim at the tail of the bin's list, if the table has room (R46). -/
def State.placeClaim (s : State) (b : Nat) (c : Claimant) (t : StationNo) (prio : Nat) :
    State × Fetched :=
  if s.clu.claims.length < Config.claims then
    ({ s with clu.claims := s.clu.claims ++
        [{ bin := b, claimant := c, dest := t, priority := prio, placed := s.svp.tick }] },
      .claim (s.claimsOn b).length)
  else (s, .claimsFull)

/-- Creates a job of an aisle; its appending is a selection event (R58, R74). -/
def State.createJob (s : State) (a : Aisle) (r : Job) : Option (State × Nat) :=
  (s.newJob a r).map (fun e => (e.1.selectAisle a, e.2))

/-- A fetch becomes a job now or a claim (R42). -/
def State.placeFetch (s : State) (b : Nat) (c : Claimant) (t : StationNo) (prio : Nat) :
    State × Fetched :=
  match (s.bin b).state with
  | .unused => (s, .unavailable)
  | .uncertain => (s, .unavailable)
  | .stored x =>
    if (s.bin b).owner = .none ∧ (s.oldestClaim b).isNone then
      match s.createJob x.aisle (fetchJob b x t prio s.svp.tick c.origin) with
      | some (s', j) => (s', .job j)
      | none => (s, .queueFull)
    else s.placeClaim b c t prio
  | _ => s.placeClaim b c t prio

/-- The bin is owned by a job whose destination is the station; the job's number (R117, R120, R153). -/
def State.jobTo (s : State) (b : Nat) (t : StationNo) : Option Nat :=
  match (s.bin b).owner with
  | .job j =>
    match s.job j with
    | some r => if r.dest = .station t then some j else none
    | none => none
  | _ => none

/-- The bin is PRESENTED at a station; its position there. -/
def State.presentedAt (s : State) (b : Nat) (t : StationNo) : Option Pos :=
  match (s.bin b).state with
  | .presented u p => if u = t then some p else none
  | _ => none

/-- The bin is UNCERTAIN or UNUSED. -/
def State.noPlace (s : State) (b : Nat) : Bool :=
  (s.bin b).state = .uncertain || (s.bin b).state = .unused

/-! ### Lanes -/

/-- A bin leaves a station's lane; what follows the departure is noted (R108). -/
def Work.leaveLane (w : Work) (t : StationNo) (b : Nat) : Work :=
  let r := w.st.station t
  if r.lane.contains b then
    (w.on (·.setStation t { r with lane := r.lane.filter (· != b) })).note
      (fun o => { o with lanes := o.lanes ++ [t] })
  else w

/-- A bin leaves every lane that holds it. -/
def Work.leaveLanes (w : Work) (b : Nat) : Work := w.each allStations (fun w t => w.leaveLane t b)

/-! ### The end of a job -/

/-- A job leaves its aisle's queue, or the place it holds outside it; the freed place is noted (R61). -/
def Work.leaveQueue (w : Work) (a : Aisle) (j : Nat) : Work :=
  let q := w.st.queue a
  if q.holds j then
    (w.on (·.setQueue a { q with jobs := q.jobs.filter (· != j),
                                 putback := if q.putback = some j then none else q.putback })).note
      (fun o => { o with places := o.places ++ [a] })
  else w

/-- The crane of an aisle forgets a job that ends: its order is orphaned (R92), a job selected for a WAKE
is gone (R85), and a resume order is removed (R95). -/
def State.craneForget (s : State) (a : Aisle) (j : Nat) : State :=
  let c := s.crane a
  s.setCrane a { c with
    order := c.order.map (fun o => if o.job = some j then { o with job := none } else o)
    selected := if c.selected = some j then none else c.selected
    resume := if c.resume = some j then none else c.resume }

/-- A job record frees: what names the job among the FIRE-owned bins is cleared, and the bin that the record
names passes to owner NONE if the job owned it (R44). -/
def State.dropJob (s : State) (j : Nat) : State :=
  let s1 := { s.delJob j with clu.fireJobs := s.clu.fireJobs.filter (fun e => e.2 != j) }
  match s.job j with
  | some q => if (s.bin q.bin).owner = .job j then s1.setOwner q.bin .none else s1
  | none => s1

/-- A job ends: it leaves its queue, its record frees, a destination hold of a SHIFT is released, what
names the job elsewhere is cleared, and a bin it owned passes to owner NONE (R44, R61). A record that frees
without a queue place, as that of a job out of its queue, is noted as such. -/
def Work.endJob (w : Work) (j : Nat) (r : Job) : Work :=
  let w1 := match r.aisle with
    | some a => ((w.leaveQueue a j).on (·.craneForget a j)).note
        (fun o => { o with ended := o.ended ++ [a] })
    | none => w
  let alone := !(r.aisle.any (fun a => (w.st.queue a).holds j))
  (w1.on (fun s => (s.releaseHold j r.dest).dropJob j)).note
    (fun o => { o with record := true, lone := o.lone || alone })

/-- An ACTIVE job returns to QUEUED, keeping its queue place and enqueue tick; a FETCH's lane place is
released (R75, R89). -/
def Work.requeue (w : Work) (j : Nat) (r : Job) : Work :=
  let w1 := w.on (·.modJob j (fun q => { q with active := false }))
  match r.kind, r.dest with
  | .fetch, .station t => w1.leaveLane t r.bin
  | _, _ => w1

end Sys2Proof.Machine
end

