-- ==== Sys2Proof/Machine/Batches.lean ====
section
/-! DEFINITION. Batches: entries and their followers, placing and releasing an entry (R120), delivery
(R121), retries (R122) and the end of a batch (R123). -/

namespace Sys2Proof.Machine

/-- An entry that is still to be delivered: PENDING, CLAIMED or QUEUED (R123). -/
def EntryState.outstanding : EntryState → Bool
  | .pending | .claimed | .queued => true
  | .delivered | .failed => false

/-- The entries with those of a resolved bin changed; an entry DELIVERED or FAILED is left as it is
(R121). A follower has its lead's bin, so it takes its lead's state (R118). -/
def setEntries (b : Nat) (st : EntryState) (es : List Entry) : List Entry :=
  es.map (fun e => if e.bin = some b && e.state.outstanding then { e with state := st } else e)

/-- Changes the entries of a batch with a resolved bin. -/
def State.setEntryState (s : State) (n b : Nat) (st : EntryState) : State :=
  match s.batch n with
  | some r => s.setBatch n { r with entries := setEntries b st r.entries }
  | none => s

/-- The index of the lowest entry with a resolved bin: the lead of the others (R118). -/
def leadIndex (b : Nat) (es : List Entry) : Nat := es.findIdx (fun e => e.bin = some b)

/-- Counts of an entry state. -/
def countEntries (st : EntryState) (es : List Entry) : Nat := (es.filter (·.state = st)).length

/-- Places the released lead entry of a batch whose bin is `b` (R120). -/
def State.placeEntry (s : State) (n b : Nat) : State :=
  match s.batch n with
  | none => s
  | some r =>
    if (s.presentedAt b r.station).isSome then s.setEntryState n b .delivered
    else if (s.jobTo b r.station).isSome then s.setEntryState n b .queued
    else if s.noPlace b then s.setEntryState n b .failed
    else
      match s.placeFetch b (.batch n (leadIndex b r.entries)) r.station r.priority with
      | (s', .job _) => s'.setEntryState n b .queued
      | (s', .claim _) => s'.setEntryState n b .claimed
      | (s', _) => s'

/-- Marks the entries of a bin as released. -/
def markReleased (b : Nat) (es : List Entry) : List Entry :=
  es.map (fun e => if e.bin = some b then { e with released := true } else e)

/-- Releases the entries of a bin and places their lead (R120). -/
def State.releaseEntry (s : State) (n b : Nat) : State :=
  match s.batch n with
  | some r => (s.setBatch n { r with entries := markReleased b r.entries }).placeEntry n b
  | none => s

/-- The entry that a PACED batch releases next: the lowest PENDING one not yet released, when no
released entry is outstanding (R120). -/
def nextPaced (r : Batch) : Option Nat :=
  if r.entries.any (fun e => e.released && e.state.outstanding) then none
  else (r.entries.find? (fun e => e.state = .pending && !e.released)).bind (·.bin)

/-- The releases a PACED batch makes until one stays outstanding (R120). -/
def State.pace : Nat → State → Nat → State
  | 0, s, _ => s
  | fuel + 1, s, n =>
    match s.batch n with
    | some r =>
      if r.state = .active ∧ r.mode = .paced then
        match nextPaced r with
        | some b => State.pace fuel (s.releaseEntry n b) n
        | none => s
      else s
    | none => s

/-- The test made at every change of an entry's state: an ACTIVE batch with no outstanding entry becomes
DONE (R123). -/
def State.testDone (s : State) (n : Nat) : State :=
  match s.batch n with
  | some r =>
    if r.state = .active && !r.entries.any (·.state.outstanding) then
      (s.setBatch n { r with state := .done }).post .batchDone (pairArg n r.station.val)
        (countEntries .delivered r.entries) (countEntries .failed r.entries)
    else s
  | none => s

/-- The entries a batch may release, then the test of R123. -/
def State.settleBatch (s : State) (n : Nat) : State := (State.pace 16 s n).testDone n

/-- An entry changes by the end of a job or claim of its own, or of a shared one; an entry that would
return to PENDING in a CANCELLED batch becomes FAILED (R124). The test of R123 follows; what a PACED batch
releases after it takes its place behind the pending grants (R52, `Work.paceDue`). -/
def State.turnEntry (s : State) (n b : Nat) (st : EntryState) : State :=
  match s.batch n with
  | some r =>
    let st' := if r.state = .cancelled ∧ st = .pending then .failed else st
    (s.setEntryState n b st').testDone n
  | none => s

/-- An ACTIVE PACED batch has an entry to release (R120). -/
def State.paces (s : State) : Bool :=
  s.stu.batches.any (fun e => e.2.state = .active && e.2.mode = .paced && (nextPaced e.2).isSome)

/-- Notes that a PACED batch has an entry to release. -/
def Work.paceDue (w : Work) : Work :=
  if w.st.paces then w.note (fun o => { o with paced := true }) else w

/-- The batches in order of creation (R122). -/
def State.batchOrder (s : State) : List Nat :=
  (sortBy (fun e => e.2.sequence) s.stu.batches).map Prod.fst

/-- Every entry of an ACTIVE batch of a station whose resolved bin is presented there becomes DELIVERED
(R121), the batches in order of creation (log 49 DESIGN CHOICE). -/
def State.deliverEntries (s : State) (b : Nat) (t : StationNo) : State :=
  s.each s.batchOrder (fun s n =>
    match s.batch n with
    | some r =>
      if r.state = .active && r.station = t && r.entries.any (fun e => e.bin = some b && e.state.outstanding)
      then s.turnEntry n b .delivered
      else s
    | none => s)

/-- Entries of other origins that shared a job which ended without a presentation at their station
return to PENDING (R120). -/
def State.unshareEntries (s : State) (b : Nat) (t : StationNo) (own : Origin) : State :=
  s.each s.batchOrder (fun s n =>
    match s.batch n with
    | some r =>
      let isOwn := match own with
        | .batch m _ => m == n
        | _ => false
      if r.state = .active && r.station = t && !isOwn &&
          r.entries.any (fun e => e.bin = some b && e.state = .queued)
      then s.setEntryState n b .pending
      else s
    | none => s)

/-- The bins of a batch's released PENDING lead entries, in entry order. -/
def pendingBins (r : Batch) : List Nat :=
  ((r.entries.filter (fun e => e.released && e.state = .pending)).filterMap (·.bin)).eraseDups

/-- Tries every released PENDING lead entry of every ACTIVE batch again (R122). -/
def State.tryEntries (s : State) : State :=
  s.each s.batchOrder (fun s n =>
    match s.batch n with
    | some r =>
      if r.state = .active then
        (pendingBins r).foldl (fun s b => (s.placeEntry n b).settleBatch n) s
      else s
    | none => s)

/-- The releases of every PACED batch, in order of creation (R120). -/
def State.paceAll (s : State) : State := s.each s.batchOrder State.settleBatch

end Sys2Proof.Machine
end

