-- ==== Sys2Proof/Machine/Pages.lean ====
section
/-! DEFINITION. The page list: placing a page (R153), its delivery and other ends (R154), and the queue of
an item (R150). -/

namespace Sys2Proof.Machine

/-- The first hold of an item's queue: its number and record (R150). -/
def State.firstHold (s : State) (it : Item) : Option (Nat × Hold) :=
  match it.queue with
  | h :: _ => (s.hold h).map (fun r => (h, r))
  | [] => none

/-- The first hold of an item's queue, when it is WAITING. -/
def State.firstWaiting (s : State) (it : Item) : Option (Nat × Hold) :=
  match s.firstHold it with
  | some (h, r) => if r.state = .waiting then some (h, r) else none
  | none => none

/-- The item lies in a bin; its bin and compartment. -/
def ItemState.shelvedIn : ItemState → Option (Nat × Fin 8)
  | .shelved b k => some (b, k)
  | _ => none

/-- The page of a hold. -/
def State.pageOf (s : State) (h : Nat) : Option Page := s.circ.pages.find? (·.hold = h)

/-- Writes the state of a hold's page. -/
def State.setPage (s : State) (h : Nat) (st : PageState) : State :=
  { s with circ.pages := s.circ.pages.map (fun g => if g.hold = h then { g with state := st } else g) }

/-- Removes the page of a hold. -/
def State.delPage (s : State) (h : Nat) : State :=
  { s with circ.pages := s.circ.pages.filter (·.hold != h) }

/-- The page of a hold has been delivered in its bin's present stay (R154). -/
def State.markDelivered (s : State) (h b : Nat) : State :=
  { s with circ.delivered := s.circ.delivered.erase (h, b) ++ [(h, b)] }

/-- A new stay of a bin at a station begins: no page has been delivered in it (R154). -/
def State.newStay (s : State) (b : Nat) : State :=
  { s with circ.delivered := s.circ.delivered.filter (fun e => e.2 != b) }

/-- A hold has left the pool: its delivered pages are forgotten (R149, R154). -/
def State.forgetDelivered (s : State) (h : Nat) : State :=
  { s with circ.delivered := s.circ.delivered.filter (fun e => e.1 != h) }

/-- A page is delivered: PAGE_READY is posted and the entry removed (R153, R154). -/
def State.deliverPage (s : State) (g : Page) (p : Pos) : State :=
  ((s.post .pageReady g.item g.bin (placeArg serviceStation p)).delPage g.hold).markDelivered g.hold g.bin

/-- Places a page (R153). -/
def State.placePage (s : State) (g : Page) : State :=
  match s.presentedAt g.bin serviceStation with
  | some p => s.deliverPage g p
  | none =>
    match s.jobTo g.bin serviceStation with
    | some j => s.setPage g.hold (.shared j)
    | none =>
      match s.placeFetch g.bin (.page g.hold) serviceStation 1 with
      | (s', .job j) => s'.setPage g.hold (.onJob j)
      | (s', .claim _) => s'.setPage g.hold .onClaim
      | (s', _) => s'.setPage g.hold .unplaced

/-- The claim of a hold page stands in the table (R45). -/
def State.pageClaimed (s : State) (h : Nat) : Bool := s.clu.claims.any (·.claimant = .page h)

/-- Tries an UNPLACED page (R153). Where the table comes to the CLU and the page's own claim has stood since its bin
became UNCERTAIN (R46), the page is PLACED on that claim and no second one is placed (R45; log 52 DEDUCED). -/
def State.retryPage (s : State) (g : Page) : State :=
  if s.pageClaimed g.hold ∧ s.presentedAt g.bin serviceStation = none ∧ s.jobTo g.bin serviceStation = none ∧
      !s.noPlace g.bin then s.setPage g.hold .onClaim
  else s.placePage g

/-- Tries again the UNPLACED pages that meet a condition, in the order of the list (R153). -/
def State.tryPagesIf (s : State) (f : Page → Bool) : State :=
  s.each (s.circ.pages.filter (fun g => g.state = .unplaced && f g)) State.retryPage

/-- Tries every UNPLACED page (R153). -/
def State.tryPages (s : State) : State := s.tryPagesIf (fun _ => true)

/-- The page an item is to have, before it is placed: one for its first hold, when the item is SHELVED, that hold is
WAITING and the item has no page (R153). -/
def State.wantedPage (s : State) (acc : Nat) : Option Page :=
  match s.item acc with
  | some it =>
    match it.state.shelvedIn, s.firstWaiting it with
    | some (b, _), some (h, _) =>
      if s.circ.pages.any (·.item = acc) then none
      else some { hold := h, item := acc, bin := b, state := .unplaced }
    | _, _ => none
  | none => none

/-- Puts a page at the end of the page list (R153). -/
def State.addPage (s : State) (g : Page) : State := { s with circ.pages := s.circ.pages ++ [g] }

/-- Creates the page an item is to have, and places it (R153). -/
def State.createPage (s : State) (acc : Nat) : State :=
  match s.wantedPage acc with
  | some g => (s.addPage g).placePage g
  | none => s

/-- Creates the page an item is to have and leaves it UNPLACED (R162). -/
def State.listPage (s : State) (acc : Nat) : State :=
  match s.wantedPage acc with
  | some g => s.addPage g
  | none => s

/-- The pages of a bin presented at S5 are delivered, whatever brought it (R154), in the order of the page list (log 56
DESIGN CHOICE). -/
def State.deliverPages (s : State) (b : Nat) (p : Pos) : State :=
  s.each (s.circ.pages.filter (·.bin = b)) (fun s g => s.deliverPage g p)

/-- The pages of a bin made UNCERTAIN become UNPLACED; a claim that carried one stays in the table (R46, R154). -/
def State.unplacePages (s : State) (b : Nat) : State :=
  { s with circ.pages := s.circ.pages.map (fun g => if g.bin = b then { g with state := .unplaced } else g) }

/-- Pages that shared a job which ended otherwise than by a presentation at S5 become UNPLACED (R154), also when the
ending is a stranding: R154's rows for a shared job and for an ABORTED both fit there, and the row for a shared job is
taken (log 58 DESIGN CHOICE). -/
def State.unsharePages (s : State) (j : Nat) : State :=
  { s with circ.pages := s.circ.pages.map (fun g =>
      if g.state = .shared j then { g with state := .unplaced } else g) }

/-- The page that a hold's job carried changes at the job's end, if it still stands on that job. -/
def State.turnPage (s : State) (h j : Nat) (st : PageState) : State :=
  match s.pageOf h with
  | some g => if g.state = .onJob j then s.setPage h st else s
  | none => s

end Sys2Proof.Machine
end

