-- ==== Sys2Proof/Machine/Shelves.lean ====
section
/-! DEFINITION. Compartments: the shelf space of a bin (R27), automatic placement (R28), and the returns
tray (R167). -/

namespace Sys2Proof.Machine

/-- Adds an item of a thickness to a compartment: its fill and the bin's item count rise (R27). -/
def Bin.add (r : Bin) (k : Fin 8) (t : Nat) : Bin :=
  { r with fills := r.fills.set k (r.fills[k] + t), count := r.count + 1 }

/-- Takes an item of a thickness out of a compartment: its fill and the bin's item count fall (R27). -/
def Bin.take (r : Bin) (k : Fin 8) (t : Nat) : Bin :=
  { r with fills := r.fills.set k (r.fills[k] - t), count := r.count - 1 }

/-- A compartment has room for a thickness (R27). -/
def Bin.hasRoom (r : Bin) (t : Nat) (k : Fin 8) : Bool := r.fills[k] + t ≤ Config.compartment

/-- Automatic placement: the first compartment with room (R28). -/
def Bin.autoPlace (r : Bin) (t : Nat) : Option (Fin 8) := (List.finRange 8).find? (r.hasRoom t)

/-- Makes an item SHELVED in a compartment of a bin; the bin's fill and count rise (R27). -/
def State.shelve (s : State) (acc : Nat) (it : Item) (b : Nat) (k : Fin 8) : State :=
  (s.setItem acc { it with state := .shelved b k }).setBin b ((s.bin b).add k it.thickness)

/-- Takes a SHELVED item out of its compartment into another state; the bin's fill and count fall (R27). -/
def State.unshelve (s : State) (acc : Nat) (it : Item) (st : ItemState) : State :=
  match it.state.shelvedIn with
  | some (b, k) =>
    (s.setItem acc { it with state := st }).setBin b ((s.bin b).take k it.thickness)
  | none => s.setItem acc { it with state := st }

/-- Takes an item off the returns tray; the items behind it keep their order (R167). -/
def State.trayTake (s : State) (acc : Nat) : State :=
  { s with rsc.tray := s.rsc.tray.filter (· != acc) }

/-- Puts an item at the tail of the returns tray (R167). -/
def State.trayAdd (s : State) (acc : Nat) : State := { s with rsc.tray := s.rsc.tray ++ [acc] }

/-- The bin that a position holds. -/
def State.binAt (s : State) (t : StationNo) (p : Pos) : Option Nat :=
  match (s.position t p).content with
  | .bin b => some b
  | _ => none

/-- The bin that is PRESENTED at a position: the position holds it, and its state says so (R28, R33). -/
def State.presentedBin (s : State) (t : StationNo) (p : Pos) : Option Nat :=
  (s.binAt t p).filter (fun b => s.presentedAt b t = some p)

end Sys2Proof.Machine
end

