-- ==== Sys2Proof/Machine/Release.lean ====
section
/-! DEFINITION. The storage grant point (R49), the release of a presented bin (R50, R51, R114), and the fill
bins of S4 that a release, a placement and an arrival act on (R169 to R173). -/

namespace Sys2Proof.Machine

/-! ### Grants -/

/-- The claimant of a claim that became a job is told (R120, R153, R170). -/
def State.claimTaken (s : State) (c : Claim) (j : Nat) : State :=
  match c.claimant with
  | .batch n _ => s.setEntryState n c.bin .queued
  | .page h => s.setPage h (.onJob j)
  | .single => s
  | .fill => s

/-- Converts the oldest claim on a bin that is STORED with owner NONE into a FETCH job, if a queue place
and a record are free (R49). -/
def Work.grant (w : Work) (b : Nat) : Work :=
  match (w.st.bin b).state.storedAt?, w.st.oldestClaim b with
  | some x, some c =>
    if (w.st.bin b).owner = .none then
      match w.st.newJob x.aisle (fetchJob b x c.dest c.priority c.placed c.claimant.origin) with
      | some (s, j) =>
        { w with st := ((s.removeClaim c).claimTaken c j).selectAisle x.aisle }.note
          (fun o => { o with claim := true })
      | none => w
    else w
  | _, _ => w

/-- The UNPLACED pages of a bin that has come to rest are to be tried (R153); a place freed in the same
action is offered first to the pending grants (R52). -/
def Work.pagesDue (w : Work) (b : Nat) : Work :=
  if w.st.circ.pages.any (fun g => g.state = .unplaced && g.bin = b) then
    w.note (fun o => { o with pages := o.pages ++ [b] })
  else w

/-- The moment a bin becomes STORED with owner NONE: the RIU chooses again if its no-qualifier flag is
set (R171), the oldest claim converts (R49), and the UNPLACED pages of the bin are tried (R153). -/
def Work.storageGrant (w : Work) (b : Nat) : Work :=
  let w1 := if w.st.riu.noQualifier then w.note (fun o => { o with choose := true }) else w
  (w1.grant b).pagesDue b

/-! ### Positions and the fill list -/

/-- Sets the attention flag of a position. -/
def State.setAttention (s : State) (t : StationNo) (p : Pos) : State :=
  s.setPosition t p { s.position t p with attention := true }

/-- The fill list entry of a bin. -/
def State.fillOf (s : State) (b : Nat) : Option FillEntry := s.riu.fills.find? (·.bin = b)

/-- The bin is a fill bin presented at a position of S4 (R170). -/
def State.fillAt (s : State) (b : Nat) (p : Pos) : Bool := (s.fillOf b).any (·.state = .presented p)

/-- A position of a station becomes empty: its attention and timer are cleared (R109), and the drain test is due
(R106). -/
def Work.clearPosition (w : Work) (t : StationNo) (p : Pos) : Work :=
  (w.on (·.setPosition t p Position.empty)).note (fun o => { o with emptied := o.emptied ++ [t] })

/-- A stray bin stands at a position of S4: one that no fill list entry names (R169). -/
def State.strayAt (s : State) (t : StationNo) (p : Pos) : Bool :=
  t = fillStation && (s.binAt t p).any (fun b => (s.fillOf b).isNone)

/-- What stood at a position leaves it. When a stray bin leaves S4, the RIU chooses again (R171). -/
def Work.emptyPosition (w : Work) (t : StationNo) (p : Pos) : Work :=
  let stray := w.st.strayAt t p
  (w.clearPosition t p).note (fun o => { o with choose := o.choose || stray })

/-- Writes the state of a bin's fill list entry. -/
def State.setFill (s : State) (b : Nat) (st : FillState) : State :=
  { s with riu.fills := s.riu.fills.map (fun e => if e.bin = b then { e with state := st } else e) }

/-- Removes a bin's fill list entry; the RIU then chooses again (R170). -/
def Work.dropFill (w : Work) (b : Nat) : Work :=
  if (w.st.fillOf b).isSome then
    (w.on (fun s => { s with riu.fills := s.riu.fills.filter (·.bin != b) })).note
      (fun o => { o with choose := true })
  else w

/-- The RIU counts a bin presented at a position of S4 as its fill bin (R43, R170); a bin that no entry names
gets one (log 35 DEDUCED). -/
def State.fillPresented (s : State) (b : Nat) (p : Pos) : State :=
  if (s.fillOf b).isSome then s.setFill b (.presented p)
  else { s with riu.fills := s.riu.fills ++ [{ bin := b, state := .presented p }] }

/-! ### Releases -/

/-- The outcome of a release (R113). -/
inductive Released where
  | transferred (t : StationNo)
  | storing (x : SlotAddr)
  | noSlot
deriving DecidableEq, Repr

/-- The direct transfer of a released bin to a claimant's station under a new ACTIVE job (R50). -/
def Work.transfer (w : Work) (t : StationNo) (p : Pos) (b j : Nat) (c : Claim) : Work :=
  let r : Job :=
    { kind := .fetch, aisle := none, bin := b, source := .transfer, dest := .station c.dest,
      priority := c.priority, enqueued := c.placed, origin := c.claimant.origin, active := true }
  let w1 := w.on (fun s =>
    ((((s.takeRecord j r).setOwner b (.job j)).laneJoin c.dest b).setBinState b (.enRoute c.dest)))
  ((w1.emptyPosition t p).on (fun s => (s.removeClaim c).claimTaken c j)).note
    (fun o => { o with claim := true })

/-- The release of a bin to storage: a wing search over all aisles, the reservation, and the bin on its
way, outside the part's sight (log 36 DESIGN CHOICE); or NO_SLOT, with attention set (R51, R113). -/
def Work.toStorage (w : Work) (t : StationNo) (p : Pos) (b : Nat) : Work × Released :=
  match w.st.wingSearch (w.st.bin b).height (w.st.bin b).climate allAisles with
  | some (x, _) =>
    ((w.on (fun s => ((s.setBinState b (.returning x.aisle none)).reserve b x).setOwner b .none)).emptyPosition
      t p, .storing x)
  | none => (w.on (·.setAttention t p), .noSlot)

/-- The claim that takes a released bin by direct transfer, with the record of its job: the oldest
claim, when its station is OPEN, the lane has room and a record is free (R50). -/
def State.transferClaim (s : State) (b : Nat) : Option (Claim × Nat) :=
  match s.oldestClaim b, s.freeJob with
  | some c, some j =>
    if (s.station c.dest).isOpen && (s.station c.dest).lane.length < Config.lanePlaces then some (c, j)
    else none
  | _, _ => none

/-- The release of the bin at a position, decided by the CLU (R50, R51, R114). A bin released from S4
leaves the fill list (R170). -/
def Work.release (w : Work) (t : StationNo) (p : Pos) (b : Nat) : Work × Released :=
  let out := match w.st.transferClaim b with
    | some (c, j) => (w.transfer t p b j c, Released.transferred c.dest)
    | none => w.toStorage t p b
  if out.2 ≠ .noSlot ∧ t = fillStation then (out.1.dropFill b, out.2) else out

/-- A fill release of the bin at a position of S4, outside FIRE_HOLD (R172). -/
def Work.fillRelease (w : Work) (p : Pos) : Work × Bool :=
  match w.st.binAt fillStation p with
  | some b =>
    if (w.st.station fillStation).inHold then (w, false)
    else
      match w.release fillStation p b with
      | (w', .noSlot) =>
        (w'.on (·.post .releaseRefused (placeArg fillStation p) ResultCode.noSlot.code 0), false)
      | (w', _) => (w', true)
  | none => (w, false)

/-- The fill release test of the fill bin at a position of S4 (R172). -/
def Work.fillTest (w : Work) (p : Pos) : Work :=
  match w.st.binAt fillStation p with
  | some b =>
    if !(w.st.station fillStation).inHold && w.st.fillAt b p &&
        (w.st.bin b).free < w.st.rsc.settings.station.fillThreshold
    then (w.fillRelease p).1
    else w
  | none => w

/-- The fill release test is due at a position of S4. It is made once the places that the action has freed have
been offered, because a release may take a job record (R50, R52, R172). -/
def Work.fillTestDue (w : Work) (p : Pos) : Work := w.note (fun o => { o with tests := o.tests ++ [p] })

/-- Tries one tray item, IN_TRAY, in a fill bin PRESENTED at a position of S4 (R167, R173). -/
def State.drainItem (s : State) (b : Nat) (p : Pos) (acc : Nat) : State :=
  match s.item acc with
  | some it =>
    if it.state ≠ .inTray ∨ s.presentedAt b fillStation ≠ some p ∨ (s.firstWaiting it).isSome then s
    else
      match (s.bin b).autoPlace it.thickness with
      | some k => ((s.trayTake acc).shelve acc it b k).sendTray acc p k
      | none => s
  | none => s

/-- Drains the tray into the fill bin at a position of S4, while S4 is OPEN and Z4 is NORMAL; the fill
release test follows (R173). -/
def Work.drain (w : Work) (p : Pos) : Work :=
  match w.st.binAt fillStation p with
  | some b =>
    if (w.st.station fillStation).isOpen && w.st.frontNormal && w.st.fillAt b p
    then (w.on (fun s => s.each s.rsc.tray (fun s acc => s.drainItem b p acc))).fillTestDue p
    else w
  | none => w

/-! ### The fill supply -/

/-- The stray bins at S4: presented there and named by no entry (R169). -/
def State.strays (s : State) : Nat :=
  (([0, 1] : List Pos).filter (fun p =>
    match s.binAt fillStation p with
    | some b => (s.fillOf b).isNone
    | none => false)).length

/-- The supply count (R169). -/
def State.supply (s : State) : Nat := s.riu.fills.length + s.strays

/-- A bin qualifies as a fill bin (R171). -/
def State.qualifies (s : State) (b : Nat) (r : Bin) : Bool :=
  match r.state.storedAt? with
  | some x =>
    r.owner = .none && (s.oldestClaim b).isNone && r.climate = .general && r.height = .standard &&
      !r.audit && s.zoneNormal x.aisle && (s.fillOf b).isNone
  | none => false

/-- The qualifying bin of largest free capacity; of equals the lower number (R171). -/
def State.bestFill (s : State) : Option Nat :=
  (s.rsc.bins.foldl (fun (best : Option (Nat × Nat)) e =>
    if s.qualifies e.1 e.2 then
      match best with
      | some (b, f) => if f < e.2.free then some (e.1, e.2.free) else some (b, f)
      | none => some (e.1, e.2.free)
    else best) none).map Prod.fst

/-- Places the fill fetch of an entry's bin (R170, R171). -/
def Work.placeFill (w : Work) (b : Nat) : Work :=
  match w.st.placeFetch b .fill fillStation 2 with
  | (s, .job _) => { w with st := s.setFill b .placed }
  | (s, .claim _) => { w with st := s.setFill b .placed }
  | (s, .queueFull) => { w with st := s.setFill b .unplaced }
  | (s, .claimsFull) => { w with st := s.setFill b .unplaced }
  | (_, .unavailable) => w.dropFill b

/-- The RIU chooses fill bins until the supply count is 2 or no bin qualifies (R171). A count above 2 clears the
no-qualifier flag as a count of 2 does (log 50 DESIGN CHOICE). -/
def Work.chooseFills : Nat → Work → Work
  | 0, w => w
  | fuel + 1, w =>
    if (w.st.station fillStation).isOpen then
      if w.st.supply < 2 then
        match w.st.bestFill with
        | some b =>
          Work.chooseFills fuel
            ((w.on (fun s => { s with riu.fills := s.riu.fills ++ [{ bin := b, state := .unplaced }] })).placeFill b)
        | none => w.on (fun s => { s with riu.noQualifier := true })
      else w.on (fun s => { s with riu.noQualifier := false })
    else w

/-- Tries an entry again by the same bin, whatever its state (R171). -/
def Work.retryFill (w : Work) (b : Nat) : Work :=
  match w.st.presentedAt b fillStation with
  | some p => (w.on (·.setFill b (.presented p))).drain p
  | none => w.placeFill b

/-- Tries every UNPLACED entry again, in list order (R171). -/
def Work.tryFills (w : Work) : Work :=
  w.each (w.st.riu.fills.filter (·.state = .unplaced)) (fun w e => w.retryFill e.bin)

end Sys2Proof.Machine
end

