-- ==== Sys2Proof/Machine/Offers.lean ====
section
/-! DEFINITION. What a freed place starts before an action ends: the drain test (R106), the head of an
overflow list (R101), the order of R61 with pending grants (R52), deferred putaways (R60), batch entries,
pages, fill fetches and the audit (R78), and the fill choice (R171). -/

namespace Sys2Proof.Machine

/-! ### Ports -/

/-- Creates the PUTAWAY of a bin at a port; none when its queue or the job table is full (R58, R59). -/
def State.createPutaway (s : State) (a : Aisle) (b : Nat) (x : SlotAddr) (t : Tick) : Option State :=
  (s.createJob a
    { kind := .putaway, aisle := some a, bin := b, source := .port, dest := .slot x, priority := 2,
      enqueued := t, origin := .return, active := false }).map Prod.fst

/-- The tick at which a bin was taken into a port inbound buffer. -/
def State.arrivalTick (s : State) (a : Aisle) (b : Nat) : Tick :=
  (((s.crane a).arrivals.find? (fun e => e.1 = b)).map Prod.snd).getD s.svp.tick

/-- Creates a PUTAWAY, at the current tick (R56), or records the bin as awaiting one, with the tick of its
arrival (R60; log 39 DESIGN CHOICE). -/
def State.putawayOrDefer (s : State) (a : Aisle) (b : Nat) (x : SlotAddr) : State :=
  match s.createPutaway a b x s.svp.tick with
  | some s' => s'
  | none => s.setQueue a { s.queue a with deferred := (s.queue a).deferred ++ [(b, s.arrivalTick a b)] }

/-- A bin joins the tail of a port inbound buffer; the tick is kept as that of its arrival (log 39 DESIGN CHOICE). -/
def State.bufferJoin (s : State) (a : Aisle) (b : Nat) : State :=
  let c := (s.crane a).leaveBuffer b
  s.setCrane a { c with buffer := (s.crane a).buffer ++ [b], arrivals := c.arrivals ++ [(b, s.svp.tick)] }

/-- A bin joins the tail of an overflow list. -/
def State.overflowJoin (s : State) (a : Aisle) (b : Nat) : State :=
  s.setCrane a { s.crane a with overflow := (s.crane a).overflow ++ [b] }

/-- The reservation a bin holds in an aisle. -/
def State.reservedIn (s : State) (b : Nat) (a : Aisle) : Option SlotAddr :=
  match (s.bin b).state.reserved? with
  | some x => if x.aisle = a then some x else none
  | none => none

/-- A bin becomes AT_PORT in an aisle, keeping a reservation there and releasing one elsewhere; its
owner is as given (R100, R101). -/
def State.toPort (s : State) (a : Aisle) (b : Nat) (o : Owner) : State :=
  (s.setBinState b (.atPort a (s.reservedIn b a))).setOwner b o

/-- Gives a bin AT_PORT with no reservation an aisle search; a slot found is reserved and its PUTAWAY
created or deferred (R100). -/
def State.searchAtPort (s : State) (a : Aisle) (b : Nat) : Option State :=
  (s.aisleSearch (s.bin b).height (s.bin b).climate a).map
    (fun x => (s.reserve b x).putawayOrDefer a b x)

/-- A bin is taken at the port of an aisle whose zone is NORMAL and whose buffer has a place (R100). -/
def State.takeAtPort (s : State) (a : Aisle) (b : Nat) : State :=
  let s1 := (s.toPort a b .none).bufferJoin a b
  match s1.reservedIn b a with
  | some x => s1.putawayOrDefer a b x
  | none =>
    match s1.searchAtPort a b with
    | some s2 => s2
    | none => s1.post .portMisroute b a.val 0

/-- The head of an overflow list is taken anew when the buffer has a place (R101). -/
def State.overflowHead (s : State) (a : Aisle) : State :=
  match (s.crane a).overflow with
  | b :: t =>
    if (s.crane a).buffer.length < Config.bufferPlaces then
      let s1 := s.setCrane a { s.crane a with overflow := t }
      if s.zoneNormal a then s1.takeAtPort a b
      else (s1.toPort a b .fire).bufferJoin a b
    else s
  | [] => s

/-- The later search for the bins in a buffer that wait with no job and no reservation (R100). A bin of the overflow
list is tried when it has come into the buffer (log 46 DESIGN CHOICE). -/
def State.retryPort (s : State) (a : Aisle) : State :=
  s.each (s.crane a).buffer (fun s b =>
    match (s.bin b).state with
    | .atPort _ none => if (s.bin b).owner = .none then (s.searchAtPort a b).getD s else s
    | _ => s)

/-! ### The drain test -/

/-- A DRAINING station whose lane and positions are empty becomes CLOSED; in FIRE_HOLD its prior state
does, without a notice (R106). -/
def State.drainTest (s : State) (t : StationNo) : State :=
  let r := s.station t
  if r.isClear then
    match r.state with
    | .normal .draining =>
      (s.setStation t { r with state := .normal .closed }).post .stationDrained t.val 0 0
    | .fireHold .draining => s.setStation t { r with state := .fireHold .closed }
    | _ => s
  else s

/-! ### The audit -/

/-- The first place from `i` on at which the audit's walk has something to do: a slot of the aisle that
is OCCUPIED by an audit-pending bin, with the bin (R78). -/
def State.auditNext (s : State) (a : Aisle) (i : Nat) : Option (Nat × Nat) :=
  (s.rsc.slots.filterMap (fun e =>
    match e.2.state with
    | .occupied b =>
      if a.val * Config.slotsPerAisle + i ≤ e.1 ∧ e.1 < (a.val + 1) * Config.slotsPerAisle ∧
          (s.bin b).audit = true
      then some (e.1 - a.val * Config.slotsPerAisle, b) else none
    | _ => none)).head?

/-- The end of a pass: the audit ends when the pass passed over no bin or was the third; otherwise the
next pass waits for the next ending of a job of the aisle (R78, log 34 DEDUCED). -/
def State.auditPassEnd (s : State) (u : Audit) : State :=
  if u.passed = 0 ∨ u.pass = 3 then
    { s with dsp.audit := none, svp.longOp := none }.post .auditDone u.aisle.val u.created u.passed
  else
    { s with dsp.audit := some { u with pass := u.pass + 1, lastPassed := u.passed, passed := 0,
                                        cursor := 0, betweenPasses := true } }

/-- The VERIFY job of an audit (R57, R78). -/
def verifyJob (b : Nat) (x : SlotAddr) (t : Tick) : Job :=
  { kind := .verify, aisle := some x.aisle, bin := b, source := .slot x, dest := .slot x, priority := 0,
    enqueued := t, origin := .audit, active := false }

/-- The walk of the audit's cursor, one slot with something to do at a time (R78). -/
def State.auditWalk : Nat → State → Audit → State
  | 0, s, u => { s with dsp.audit := some u }
  | fuel + 1, s, u =>
    match s.auditNext u.aisle u.cursor with
    | none => s.auditPassEnd { u with cursor := Config.slotsPerAisle }
    | some (i, b) =>
      let x := SlotAddr.ofIndex u.aisle i
      if (s.bin b).owner = .none ∧ (s.oldestClaim b).isNone then
        match s.createJob u.aisle (verifyJob b x s.svp.tick) with
        | some (s', _) => State.auditWalk fuel s' { u with cursor := i + 1, created := u.created + 1 }
        | none => { s with dsp.audit := some { u with cursor := i } }
      else State.auditWalk fuel s { u with cursor := i + 1, passed := u.passed + 1 }

/-- An advance of the audit's cursor (R78). -/
def State.auditAdvance (s : State) (u : Audit) : State :=
  State.auditWalk (Config.slotsPerAisle + 1) s { u with betweenPasses := false }

/-! ### The order of R61 -/

/-- The aisles that the freed places concern: those that lost a place (R60, R61); a record that freed alone concerns
every aisle whose queue has room (log 7 DESIGN CHOICE). -/
def State.freedAisles (s : State) (t : Todo) : List Aisle :=
  allAisles.filter (fun a => t.places.contains a || (t.lone && s.queueRoom a))

/-- The aisles to whose pending grants the freed places are offered: every aisle when a record freed while every
queue has room, and otherwise those that the freed places concern (R52). -/
def State.grantAisles (s : State) (t : Todo) : List Aisle :=
  if t.record && allAisles.all s.queueRoom then allAisles else s.freedAisles t

/-- The bins of some aisles that have a pending grant, in order of the placed tick of their oldest
claims, and of equal ticks in order of placement (R52). -/
def State.pendingGrants (s : State) (as : List Aisle) : List Nat :=
  (sortBy (fun c => ageRank s.svp.tick c.placed)
    (s.clu.claims.filter (fun c => s.oldestClaim c.bin = some c && (s.bin c.bin).owner = .none &&
      (match (s.bin c.bin).state.storedAt? with
       | some x => as.contains x.aisle
       | none => false)))).map (·.bin) |>.eraseDups

/-- The bins of an aisle that await a deferred putaway, in buffer order, each with its arrival tick (R60). -/
def State.awaiting (s : State) (a : Aisle) : List (Nat × Tick) :=
  (s.crane a).buffer.filterMap (fun b => (s.queue a).deferred.find? (fun e => e.1 = b))

/-- Creates the deferred putaways of an aisle in buffer order while places and records remain (R60). -/
def State.serveDeferred (s : State) (a : Aisle) : State :=
  s.each (s.awaiting a) (fun s e =>
    match (s.bin e.1).state.reserved? with
    | some x =>
      match s.createPutaway a e.1 x e.2 with
      | some s' => s'.setQueue a { s'.queue a with
          deferred := (s'.queue a).deferred.filter (fun d => d.1 != e.1) }
      | none => s
    | none => s)

/-- The cursor of the audit at a freed queue place of its aisle or a freed record: it advances, or begins its
next pass when a job of its aisle ended (R78). -/
def State.serveAudit (s : State) (t : Todo) : State :=
  match s.dsp.audit with
  | some u =>
    if u.betweenPasses then (if t.ended.contains u.aisle then s.auditAdvance u else s)
    else if t.record || t.places.contains u.aisle then s.auditAdvance u
    else s
  | none => s

/-- The freed places are offered in the order of R61: pending grants, deferred putaways, PENDING batch entries
and what PACED batches release (R120), UNPLACED pages, UNPLACED fill fetches, the audit. A freed claim entry
alone is offered to batch entries, pages and fill fetches (R48); where nothing was freed, the entries and
pages that are due are placed all the same. -/
def Work.offer (w : Work) (t : Todo) : Work :=
  let pace := fun (s : State) => if t.paced then s.paceAll else s
  if t.places.isEmpty && !t.record && !t.claim then
    w.on (fun s => ((pace s).tryPagesIf (fun g => t.pages.contains g.bin)).serveAudit t)
  else
    let w1 := w.each (w.st.pendingGrants (w.st.grantAisles t)) Work.grant
    let w2 := w1.on (fun s => s.each (w.st.freedAisles t) State.serveDeferred)
    let w3 := w2.on (fun s => (pace s.tryEntries).tryPages)
    let w4 := w3.tryFills
    w4.on (fun s => s.serveAudit t)

/-- The queue places and records that an action has freed so far are offered before the action takes one itself
(R52, R61). -/
def Work.offerFreed (w : Work) : Work :=
  let t := w.todo
  if t.places.isEmpty && !t.record then w
  else
    Work.offer { w with todo := { t with places := [], record := false, lone := false, ended := [] } }
      { Todo.none with places := t.places, record := t.record, lone := t.lone, ended := t.ended }

/-- One round of what an action has left: selections and drain tests of lanes (R74, R106, R108), emptied
positions, the offers of R61, the fill release tests (R172), freed buffer places (R101), the fill choice (R171). -/
def Work.round (w : Work) : Work :=
  let t := w.todo
  let w0 : Work := { w with todo := Todo.none }
  let w1 := w0.on (fun s => s.each t.lanes (fun s u => (s.drainTest u).selectFor u))
  let w2 := w1.on (fun s => s.each t.emptied State.drainTest)
  let w3 := w2.offer t
  let w4 := w3.each t.tests Work.fillTest
  let w5 := w4.on (fun s => s.each t.buffers State.overflowHead)
  if t.choose then Work.chooseFills 4 w5 else w5

/-- Carries out what an action has left until nothing is left (log 7 DESIGN CHOICE). -/
def Work.settleWith : Nat → Work → State
  | 0, w => w.st
  | fuel + 1, w => if w.todo = Todo.none then w.st else Work.settleWith fuel w.round

/-- The end of an action. -/
def Work.settle (w : Work) : State := Work.settleWith 64 w

end Sys2Proof.Machine
end

