-- ==== Sys2Proof/Machine/Uncertain.lean ====
section
/-! DEFINITION. How the end of a fetch reaches its origin (section 6.6), the uncertainty rule (R10), the
cancelling of a job (R66), the withdrawal of a page (R155) and of the fill fetches (R170). -/

namespace Sys2Proof.Machine

/-- The endings of a fetch job other than a delivery (section 6.6). -/
inductive FetchEnd where
  | fire (z : ZoneNo)
  | lost
  | misrouted
  | recovered
  | uncertain
  | cancelled
deriving DecidableEq, Repr

/-- The reason that FETCH_FAILED carries, coded in the order section 11.8 lists them; a cancelling posts
none. -/
def FetchEnd.reason : FetchEnd → Option Nat
  | .fire _ => some 0
  | .lost => some 1
  | .misrouted => some 2
  | .recovered => some 3
  | .uncertain => some 4
  | .cancelled => none

/-- The state an entry takes at the end of its own job (section 6.6). -/
def FetchEnd.entry : FetchEnd → EntryState
  | .fire _ | .misrouted | .recovered => .pending
  | .lost | .uncertain | .cancelled => .failed

/-- FETCH_FAILED, when the ending has a reason. -/
def State.fetchFailed (s : State) (b : Nat) (how : FetchEnd) : State :=
  match how.reason with
  | some k => s.post .fetchFailed b k 0
  | none => s

/-- The fill list entry of a fill fetch that ended otherwise than by a delivery (R170). -/
def Work.fillEnded (w : Work) (b : Nat) (how : FetchEnd) : Work :=
  match how with
  | .fire z => w.on (·.setFill b (.held z))
  | _ => w.dropFill b

/-- The entries and pages of other origins that shared a job learn that it ended otherwise than by a
presentation at its station (R120, R154; that a page which shared a stranded job is UNPLACED: log 58 DESIGN CHOICE). -/
def State.unshare (s : State) (j : Nat) (r : Job) : State :=
  match r.dest with
  | .station t => (s.unshareEntries r.bin t r.origin).unsharePages j
  | _ => s

/-- Tells the origin of a FETCH job, and what shared the job, that the job ended otherwise than by a
presentation at its station (R66, R94, R111, R120, R154, R181; section 6.6). Other kinds report nothing. -/
def Work.tellFetchEnd (w : Work) (j : Nat) (r : Job) (how : FetchEnd) : Work :=
  match r.kind with
  | .fetch =>
    let w1 := match r.origin with
      | .single => w.on (·.fetchFailed r.bin how)
      | .batch n _ => (w.on (·.turnEntry n r.bin how.entry)).paceDue
      | .page h => w.on (·.turnPage h j (match how with | .fire z => .held z | _ => .unplaced))
      | .fill => w.fillEnded r.bin how
      | _ => w
    w1.on (·.unshare j r)
  | _ => w

/-- What becomes of a position that records a bin made UNCERTAIN: UNKNOWN with attention, or other content
that the invoking rule gives (R10). -/
inductive PositionFate where
  | unknown
  | otherContent
deriving DecidableEq, Repr

/-- A position that recorded a bin becomes UNKNOWN: attention is set and its timer stops; its arrival tick
stays (R10, R109, log 15 DEDUCED). -/
def State.positionUnknown (s : State) (t : StationNo) (p : Pos) : State :=
  s.setPosition t p { s.position t p with
    content := .unknown, attention := true, deadline := none, restart := none, expiredInHold := false }

/-- The places outside the rack that hold a bin drop it (R10, steps 3 and 4). -/
def Work.dropPlaces (w : Work) (b : Nat) (fate : PositionFate) : Work :=
  let w1 := w.leaveLanes b
  let w2 := w1.each allAisles (fun w a =>
    let c := w.st.crane a
    let w' := w.on (fun s =>
      (s.setCrane a (c.leavePort b)).setQueue a
        { s.queue a with deferred := (s.queue a).deferred.filter (fun d => d.1 != b) })
    if c.buffer.contains b then w'.note (fun o => { o with buffers := o.buffers ++ [a] }) else w')
  match (w2.st.bin b).state with
  | .presented t p =>
    let w3 := match fate with
      | .unknown =>
        (w2.on (·.positionUnknown t p)).note (fun o => { o with choose := o.choose || t = fillStation })
      | .otherContent => w2.emptyPosition t p
    if t = fillStation then w3.dropFill b else w3
  | _ => w2

/-- The job that owns a bin, or that is recorded against it while FIRE owns it (R53, log 16 DEDUCED). -/
def State.jobOf (s : State) (b : Nat) : Option Nat :=
  match (s.bin b).owner with
  | .job j => some j
  | _ => Tab.find s.clu.fireJobs b

/-- The uncertainty rule (R10): the bin's slot becomes FREE, its reservation is released, the places that
hold it drop it, the job that owns it ends as failed, and the bin is UNCERTAIN with owner NONE. Every page of the bin
becomes UNPLACED, also one that a claim carries, while the claim stays in the table (R46, R154, log 52 DEDUCED). -/
def Work.makeUncertain (w : Work) (b : Nat) (fate : PositionFate) (how : FetchEnd) : Work :=
  let job := w.st.jobOf b
  let w1 := (w.dropPlaces b fate).on (fun s => (s.setBinState b .uncertain).setOwner b .none)
  let w2 := match job with
    | some j =>
      match w1.st.job j with
      | some r => (w1.endJob j r).tellFetchEnd j r how
      | none => w1
    | none => w1
  (w2.dropFill b).on (fun s =>
    { s with clu.fireJobs := s.clu.fireJobs.filter (fun e => e.1 != b) }.unplacePages b)

/-- A QUEUED job is cancelled: it ends, its bin passes to owner NONE, which is the storage grant point of
a STORED bin (R44, R49, R66). -/
def Work.cancelJob (w : Work) (j : Nat) (r : Job) : Work := (w.endJob j r).storageGrant r.bin

/-- QUEUED fetch jobs are withdrawn by their own origin: they end and what shared them is told (R61, R120,
R154); then their bins, at owner NONE again, have their grant points (R44, R49; the order is log 48 DESIGN
CHOICE). -/
def Work.withdrawJobs (w : Work) (l : List (Nat × Job)) : Work :=
  let w1 := w.each l (fun w e => (w.endJob e.1 e.2).on (·.unshare e.1 e.2))
  w1.each l (fun w e => w.storageGrant e.2.bin)

/-- A claim is withdrawn; its entry frees (R47, R48). -/
def Work.withdrawClaim (w : Work) (c : Claim) : Work :=
  (w.on (·.removeClaim c)).note (fun o => { o with claim := true })

/-- What carries a withdrawn page is withdrawn with it: its claim, or its own QUEUED job (R155). A claim that stands
while the page is UNPLACED goes with it (R47, log 52 DEDUCED). -/
def Work.withdrawPage (w : Work) (h : Nat) : Work :=
  match w.st.pageOf h with
  | some g =>
    let w1 := w.on (·.delPage h)
    let w2 := match w1.st.clu.claims.find? (·.claimant = .page h) with
      | some c => w1.withdrawClaim c
      | none => w1
    match g.state with
    | .onJob j =>
      match w2.st.job j with
      | some r => if r.active then w2 else w2.withdrawJobs [(j, r)]
      | none => w2
    | .onClaim | .unplaced | .shared _ | .held _ => w2
  | none => w

/-- Withdraws the page of an item, if it has one (R155). -/
def Work.withdrawItemPage (w : Work) (acc : Nat) : Work :=
  match w.st.circ.pages.find? (·.item = acc) with
  | some g => w.withdrawPage g.hold
  | none => w

/-- The claims of the RIU (R47). -/
def State.fillClaims (s : State) : List Claim := s.clu.claims.filter (·.claimant = .fill)

/-- The QUEUED jobs of the RIU (R170). -/
def State.fillJobs (s : State) : List (Nat × Job) :=
  s.dsp.jobs.filter (fun e => e.2.origin = .fill && !e.2.active)

/-- An entry leaves the fill list when S4 leaves OPEN: it is UNPLACED or HELD, or PLACED on a claim or on a
QUEUED job (R170). -/
def State.fillGoes (s : State) (e : FillEntry) : Bool :=
  match e.state with
  | .unplaced => true
  | .held _ => true
  | .placed => s.fillClaims.any (·.bin = e.bin) || s.fillJobs.any (fun j => j.2.bin = e.bin)
  | .presented _ => false

/-- The RIU withdraws its fill fetches when S4 leaves OPEN: entries by `fillGoes`; every fill claim is
withdrawn and every QUEUED fill job cancelled, those without an entry too; jobs that are ACTIVE run on (R47,
R105, R170). -/
def Work.withdrawFills (w : Work) : Work :=
  let s0 := w.st
  let w1 := w.on (fun s => { s with riu.fills := s.riu.fills.filter (fun e => !s0.fillGoes e) })
  (w1.each s0.fillClaims Work.withdrawClaim).withdrawJobs s0.fillJobs

end Sys2Proof.Machine
end

