-- ==== Sys2Proof/Machine/Arrivals.lean ====
section
/-! DEFINITION. Presentation at a station (R43, R109, R115, R121), station arrivals (R110 to R112) and port
arrivals (R100, R101). -/

namespace Sys2Proof.Machine

/-! ### Presentation -/

/-- The position record of a bin newly presented: the current tick as arrival tick, the residence timer
running (R109, R115). -/
def State.freshPosition (s : State) (t : StationNo) (b : Nat) (attention : Bool) : Position :=
  { content := .bin b, arrival := some s.svp.tick,
    deadline := some (s.svp.tick.after (s.residenceTicks t)), attention := attention, restart := none,
    expiredInHold := false }

/-- A bin becomes PRESENTED at a position with owner STATION (R43, R109); a new stay of the bin begins (R154). -/
def State.present (s : State) (b : Nat) (t : StationNo) (p : Pos) (attention : Bool) : State :=
  ((((s.newStay b).setBinState b (.presented t p))).setOwner b (.station t)).setPosition t p
    (s.freshPosition t b attention)

/-- A claim is satisfied by a presentation at its destination; its claimant is treated as delivered
(R43). -/
def Work.satisfy (w : Work) (t : StationNo) (p : Pos) (c : Claim) : Work :=
  let w1 := w.withdrawClaim c
  match c.claimant with
  | .single => w1.on (·.post .fetchArrived c.bin (placeArg t p) 0)
  | .batch n _ => (w1.on (·.turnEntry n c.bin .delivered)).paceDue
  | .page h =>
    match w1.st.pageOf h with
    | some g => if t = serviceStation then w1.on (·.deliverPage g p) else w1
    | none => w1
  | .fill => if t = fillStation then w1.on (·.fillPresented c.bin p) else w1

/-- What every presentation does for those who wait for the bin at the station: claims bound for it are satisfied
(R43), batch entries (R121) and pages (R154) delivered; the pages that stand on neither the own job nor a claim come
last (log 56 DESIGN CHOICE). -/
def Work.servePresented (w : Work) (b : Nat) (t : StationNo) (p : Pos) : Work :=
  let w1 := w.each ((w.st.claimsOn b).filter (·.dest = t)) (fun w c => w.satisfy t p c)
  let w2 := (w1.on (·.deliverEntries b t)).paceDue
  w2.on (fun s => if t = serviceStation then s.deliverPages b p else s)

/-- What follows every presentation; the tray is drained into a bin that has become a fill bin (R173). -/
def Work.afterPresent (w : Work) (b : Nat) (t : StationNo) (p : Pos) : Work :=
  let w1 := w.servePresented b t p
  if t = fillStation ∧ w1.st.fillAt b p then w1.drain p else w1

/-- What follows a presentation by a station arrival: the bin's UNPLACED pages are tried too (R153), which at a
presentation by ADD_BIN or RESOLVE_BIN they are not. -/
def Work.afterArrival (w : Work) (b : Nat) (t : StationNo) (p : Pos) : Work := (w.afterPresent b t p).pagesDue b

/-- The page of a hold that still stands on a job is delivered at S5; a page already withdrawn is not (R110,
R154). -/
def State.deliverOwnPage (s : State) (h j : Nat) (t : StationNo) (p : Pos) : State :=
  match s.pageOf h with
  | some g => if t = serviceStation ∧ g.state = .onJob j then s.deliverPage g p else s
  | none => s

/-- The origin of a FETCH job is told of its delivery (R110). -/
def Work.tellDelivered (w : Work) (j : Nat) (r : Job) (t : StationNo) (p : Pos) : Work :=
  match r.origin with
  | .single => w.on (·.post .fetchArrived r.bin (placeArg t p) 0)
  | .batch n _ => (w.on (·.turnEntry n r.bin .delivered)).paceDue
  | .page h => w.on (·.deliverOwnPage h j t p)
  | .fill => w.on (·.fillPresented r.bin p)
  | .audit | .fireRecovery | .return => w

/-! ### Station arrivals -/

/-- The arrival of a bin that is in the station's lane delivers it (R110). -/
def Work.deliver (w : Work) (t : StationNo) (p : Pos) (b : Nat) (conflict : Bool) : Work :=
  let job := w.st.jobOf b
  let w1 := (w.leaveLane t b).on (·.present b t p conflict)
  let w2 := match job with
    | some j =>
      match w1.st.job j with
      | some r => (w1.endJob j r).tellDelivered j r t p
      | none => w1
    | none => w1
  w2.afterArrival b t p

/-- The arrival of an EN_ROUTE bin elsewhere than at its lane: a misroute (R111). -/
def Work.misroute (w : Work) (t : StationNo) (p : Pos) (b : Nat) (bound : StationNo) : Work :=
  let job := w.st.jobOf b
  let w1 := (w.leaveLanes b).on (·.present b t p true)
  let w2 := w1.on (·.post .misrouted b bound.val (placeArg t p))
  let w3 := match job with
    | some j =>
      match w2.st.job j with
      | some r => (w2.endJob j r).tellFetchEnd j r .misrouted
      | none => w2
    | none => w2
  w3.afterArrival b t p

/-- The arrival of an UNCERTAIN bin: it is presented with attention set, and BIN_FOUND is posted (R111). -/
def Work.found (w : Work) (t : StationNo) (p : Pos) (b : Nat) : Work :=
  (w.on (fun s => (s.present b t p true).post .binFound b (placeArg t p) 0)).afterArrival b t p

/-- A presented bin moves to the other position of its station; its whole record moves with it (R111; log 45
DESIGN CHOICE of the restart tick and the mark of an expiry in FIRE_HOLD). As every arrival it serves those who
wait for the bin; the tray is drained when the bin becomes a fill bin by it (R173), and is not when it was one, PRESENTED
at the other position before (R170; log 62 DESIGN CHOICE). -/
def Work.movePosition (w : Work) (t : StationNo) (p q : Pos) (b : Nat) (conflict : Bool) : Work :=
  let r := w.st.position t q
  let w1 := w.on (fun s =>
    (s.setPosition t p { r with attention := r.attention || conflict }).setBinState b (.presented t p))
  let w2 := w1.clearPosition t q
  let was := w2.st.fillAt b q
  let w3 := if t = fillStation ∧ was then w2.on (·.setFill b (.presented p)) else w2
  let w4 := w3.servePresented b t p
  (if t = fillStation ∧ !was ∧ w4.st.fillAt b p then w4.drain p else w4).pagesDue b

/-- The arrival of a bin at a position that holds no other bin, by its lane and state (R110, R111); an EN_ROUTE
bin in no lane of the station is a misroute (log 31 DEDUCED). -/
def Work.arrive (w : Work) (t : StationNo) (p : Pos) (b : Nat) (conflict : Bool) : Work :=
  if (w.st.station t).lane.contains b then w.deliver t p b conflict
  else
    match (w.st.bin b).state with
    | .uncertain => w.found t p b
    | .enRoute u => w.misroute t p b u
    | .presented u q =>
      if u = t then (if q = p then w else w.movePosition t p q b conflict)
      else (w.makeUncertain b .otherContent .uncertain).found t p b
    | .unused => w
    | .stored _ => (w.makeUncertain b .otherContent .uncertain).found t p b
    | .onCrane _ => (w.makeUncertain b .otherContent .uncertain).found t p b
    | .returning _ _ => (w.makeUncertain b .otherContent .uncertain).found t p b
    | .atPort _ _ => (w.makeUncertain b .otherContent .uncertain).found t p b

/-- An arrival with no readable label, or of a bin number not in use: the position becomes UNKNOWN, and a
bin it held UNCERTAIN (R112). -/
def Work.arriveUnread (w : Work) (t : StationNo) (p : Pos) (read : Option Nat) : Work :=
  let w1 := match w.st.binAt t p with
    | some e => w.makeUncertain e .unknown .uncertain
    | none => w
  w1.on (fun s =>
    (s.setPosition t p { s.position t p with
        content := .unknown, arrival := some s.svp.tick, attention := true }).post
      .positionUnknown (placeArg t p) (binArg read) 0)

/-- A station arrival (R110 to R112). A read of a number above 16,383, for which there is no record, is taken as that of
an UNUSED bin (log 41 DESIGN CHOICE). -/
def Work.stationArrival (w : Work) (t : StationNo) (p : Pos) (read : Option Nat) : Work :=
  match read with
  | none => w.arriveUnread t p none
  | some b =>
    if (w.st.bin b).state = .unused then w.arriveUnread t p (some b)
    else
      match w.st.binAt t p with
      | some e =>
        if e = b then w
        else
          ((w.makeUncertain e .otherContent .uncertain).on
            (·.post .positionConflict (placeArg t p) e b)).arrive t p b true
      | none => w.arrive t p b false

/-! ### Port arrivals -/

/-- The states in which a bin that arrives at a port of an aisle is first made UNCERTAIN (R100). An ON_CRANE bin is one
of them whatever it has reserved, a slot of the port's own aisle included (log 23 DEDUCED). -/
def lostBeforePort (a : Aisle) : BinState → Bool
  | .stored _ | .enRoute _ | .presented _ _ | .onCrane _ => true
  | .atPort c _ => c ≠ a
  | .returning _ _ | .uncertain | .unused => false

/-- An arrival at an aisle port (R100, R101). A bin the records place elsewhere is first made UNCERTAIN in
R101's cases too; BIN_FOUND is posted in R100's (log 23 DEDUCED). What its job frees is offered before the bin's
PUTAWAY takes a place (R52, R61). An overfill stops the queue, with AISLE_STOPPED when it was STOPPING (R63, R64, log
22 DEDUCED). A read of a number above 16,383 is taken as that of an UNUSED bin (log 41 DESIGN CHOICE). -/
def Work.portArrival (w : Work) (a : Aisle) (read : Option Nat) : Work :=
  match read with
  | none => w.on (·.post .portUnreadable a.val noneArg 0)
  | some b =>
    if (w.st.bin b).state = .unused then w.on (·.post .portUnreadable a.val b 0)
    else if (w.st.crane a).buffer.contains b || (w.st.crane a).overflow.contains b then w
    else
      let w1 := if lostBeforePort a (w.st.bin b).state then w.makeUncertain b .unknown .uncertain else w
      let full := Config.bufferPlaces ≤ (w1.st.crane a).buffer.length
      if !w1.st.zoneNormal a then
        w1.on (fun s => if full then (s.toPort a b .fire).overflowJoin a b
                        else (s.toPort a b .fire).bufferJoin a b)
      else if full then
        w1.on (fun s =>
          (((s.toPort a b .none).overflowJoin a b).stopQueue a (some .overfill)).post .portOverfill a.val b 0)
      else
        w1.offerFreed.on (fun s =>
          let s1 := if (s.bin b).state = .uncertain then s.post .binFound b a.val 1 else s
          s1.takeAtPort a b)

end Sys2Proof.Machine
end

