-- ==== Sys2Proof/Machine/CraneOps.lean ====
section
/-! DEFINITION. The course of crane orders: the effects of PICKED (R87), the end of an order (R88), halts (R82,
R86, R89), stranding (R180), the entry into IDLE (R82, R95 to R97), waking (R99), the shutter step that a parked
crane starts (R179), and late messages (R91). -/

namespace Sys2Proof.Machine

/-- The drive's messages, coded in the order R83 lists them. -/
inductive Message where
  | ready | accepted | picked | done | verified | aborted | fault | parked | rested
deriving DecidableEq, Repr

/-- The code of a message in a notice (R84, R91). -/
def Message.code : Message → Nat
  | .ready => 0 | .accepted => 1 | .picked => 2 | .done => 3 | .verified => 4 | .aborted => 5
  | .fault => 6 | .parked => 7 | .rested => 8

/-- LINK_ERROR (aisle, message kind, tag) (R84). -/
def State.linkError (s : State) (a : Aisle) (m : Message) (tag : Byte) : State :=
  s.post .linkError a.val m.code tag.toNat

/-- LATE_DONE (aisle, tag, message kind) (R91). -/
def State.lateDone (s : State) (a : Aisle) (tag : Byte) (m : Message) : State :=
  s.post .lateDone a.val tag.toNat m.code

/-- How a crane takes a message that carries a tag (R84, R91): discarded, late, or for the outstanding
order. -/
inductive Taken where
  | discarded
  | late (o : Order)
  | current (o : Order)
deriving DecidableEq, Repr

/-- A crane's reading of a tag (R84, R91). -/
def Crane.takes (c : Crane) (tag : Byte) : Taken :=
  match c.order with
  | some o =>
    if o.tag = tag then
      match c.state with
      | .busy | .aborting => .current o
      | .halted => .late o
      | _ => .discarded
    else .discarded
  | none => .discarded

/-- Writes the position and load flag of a crane. -/
def State.setDrive (s : State) (a : Aisle) (p : CranePos) (load : Bool) : State :=
  s.setCrane a { s.crane a with position := some p, load := load }

/-- Removes the outstanding order; its accept timer stops. -/
def State.clearOrder (s : State) (a : Aisle) : State :=
  s.setCrane a { s.crane a with order := none, acceptTimer := none }

/-- The job that an outstanding order carries. -/
def State.orderJob (s : State) (o : Order) : Option (Nat × Job) :=
  o.job.bind (fun j => (s.job j).map (fun r => (j, r)))

/-! ### PICKED -/

/-- The effects of PICKED on the records (R87). -/
def Work.pickEffects (w : Work) (a : Aisle) (r : Job) : Work :=
  let b := r.bin
  match r.kind with
  | .fetch => w.on (fun s => (s.setBinState b (.onCrane none)).retryPort a)
  | .putaway =>
    let c := w.st.crane a
    let w1 := w.on (fun s =>
      (s.setCrane a (c.leaveBuffer b)).setBinState b (.onCrane (s.bin b).state.reserved?))
    if c.buffer.contains b then w1.note (fun o => { o with buffers := o.buffers ++ [a] }) else w1
  | .shift =>
    w.on (fun s =>
      let s1 := s.setBinState b (.onCrane none)
      let s2 := match r.destSlot? with
        | some x => (s1.setHeld x none).reserve b x
        | none => s1
      s2.retryPort a)
  | .verify => w
  | .putback => w

/-- Records that PICKED was taken and sets the load flag (R87). -/
def State.markPicked (s : State) (a : Aisle) : State :=
  let c := s.crane a
  s.setCrane a { c with order := c.order.map (fun o => { o with picked := true }), load := true }

/-- A bin counts as picked when PICKED was taken for the order, or when the order is loaded (R94). -/
def Order.isPicked (o : Order) : Bool := o.picked || o.loaded

/-- The effects of PICKED, if they have not been applied to the order and it makes a pick: they come
first, as R89 gives for a load that no PICKED told of (log 17 DEDUCED). -/
def Work.pickIfNeeded (w : Work) (a : Aisle) (o : Order) (r : Job) : Work :=
  if o.isPicked then w else w.pickEffects a r

/-! ### Stranding -/

/-- The slot a stranded bin is given: its reservation; else its former slot if FREE and not held; else an
aisle search (R180). -/
def State.strandSlot (s : State) (a : Aisle) (b : Nat) (former : Option SlotAddr) : State :=
  match (s.bin b).state.reserved? with
  | some _ => s
  | none =>
    match former.filter (fun x => (s.slot x).state = .free && (s.slot x).held.isNone) with
    | some x => s.reserve b x
    | none =>
      match s.aisleSearch (s.bin b).height (s.bin b).climate a with
      | some x => s.reserve b x
      | none => s

/-- The PUTBACK of a stranded bin (R57, R180). -/
def putbackJob (a : Aisle) (b : Nat) (x : Option SlotAddr) (t : Tick) : Job :=
  { kind := .putback, aisle := some a, bin := b, source := .forks,
    dest := match x with | some y => .slot y | none => .undecided,
    priority := 3, enqueued := t, origin := .fireRecovery, active := false }

/-- The PUTBACK of a stranded bin takes a free record and a free place of the queue, which the job that the
stranding has ended leaves (R180, step 4); none free, as no run has it, no PUTBACK is made (log 32 DESIGN CHOICE).
While the zone is not NORMAL the bin is FIRE-owned and the PUTBACK waits outside the queue, holding its place and
recorded against the bin (R53, R60); otherwise it joins the queue and owns the bin. -/
def State.createPutback (s : State) (a : Aisle) (b : Nat) : State :=
  match s.freeJob with
  | some n =>
    if s.queueRoom a then
      let s1 := s.takeRecord n (putbackJob a b (s.bin b).state.reserved? s.svp.tick)
      if s1.zoneNormal a then (s1.enqueue a n).setOwner b (.job n)
      else
        let s2 := (s1.setQueue a { s1.queue a with putback := some n }).setOwner b .fire
        { s2 with clu.fireJobs := Tab.put s2.clu.fireJobs b n }
    else s
  | none => s

/-- Strands the bin on the forks (R180): it keeps or is given a slot, the job ends by R181, and a PUTBACK takes its
record and queue place. -/
def Work.strand (w : Work) (a : Aisle) (j : Nat) (r : Job) : Work :=
  let b := r.bin
  let w1 := (w.on (fun s => (s.setOwner b .fire).strandSlot a b r.sourceSlot?)).leaveLanes b
  let before := w1.todo
  let w2 := ((w1.endJob j r).note (fun o =>
    { o with places := before.places, record := before.record, lone := before.lone }))
  (w2.tellFetchEnd j r (.fire a.zone)).on (·.createPutback a b)

/-! ### Entry into IDLE, parking and waking -/

/-- A resume order met by the abort-first condition is removed and its bin stranded (R95, R180). -/
def Work.strandResume (w : Work) (a : Aisle) : Work :=
  match (w.st.crane a).resume with
  | some j =>
    match w.st.job j with
    | some r => (w.on (fun s => s.setCrane a { s.crane a with resume := none })).strand a j r
    | none => w.on (fun s => s.setCrane a { s.crane a with resume := none })
  | none => w

/-- Starts the rest timer of an IDLE crane, when it is to rest (R96). -/
def State.startRest (s : State) (a : Aisle) : State :=
  if s.rsc.settings.restIdle = 0 then s
  else s.setCrane a { s.crane a with
    restTimer := some (s.svp.tick.after (seconds s.rsc.settings.restIdle)) }

/-- A crane enters IDLE (R82): the park condition is tested first (R97), then the resume order (R95);
when neither applies the rest timer starts (R96) and a selection is taken (R74). -/
def Work.enterIdle (w : Work) (a : Aisle) : Work :=
  let w1 := w.on (·.setCraneState a .idle)
  if !w1.st.zoneNormal a then (w1.strandResume a).on (·.sendPark a)
  else if w1.st.authority ≠ .library then w1.on (·.sendPark a)
  else if (w1.st.crane a).resume.isSome then w1.on (·.selectAisle a)
  else w1.on (fun s => (s.startRest a).selectAisle a)

/-- Wakes a PARKED crane, when its park condition is clear and no lapse stands (R76, R99). -/
def State.wakeParked (s : State) (a : Aisle) : State :=
  if (s.crane a).state = .parked && s.canOrder a then s.sendWake a none else s

/-- A new stretch of the securing sequence ends it: a SECURING zone becomes SECURED (R177, R179). -/
def State.endSecuring (s : State) (z : ZoneNo) : State :=
  let r := s.zone z
  if r.state = .securing then
    (s.setZone z { r with state := .secured }).post .zone z.val ZoneState.secured.code 0
  else s

/-- The shutter step: the command becomes CLOSE and the shutter timer starts; a shutter already closed and
confirmed ends the securing at once (R179). -/
def State.shutterStep (s : State) (z : ZoneNo) : State :=
  let r := s.zone z
  if r.shutterCmd = .close && r.confirmed then s.endSecuring z
  else s.setZone z { r with
    shutterCmd := .close
    shutterTimer := some (s.svp.tick.after (seconds s.rsc.settings.interlock.shutter)) }

/-- The parked flag of a crane is reported set: a running park timer stops and the shutter step is taken
(R179). -/
def State.parkedReport (s : State) (a : Aisle) : State :=
  let r := s.zone a.zone
  if r.parkTimer.isSome then (s.setZone a.zone { r with parkTimer := none }).shutterStep a.zone else s

/-- The abort-first park condition arises (R97, R178). -/
def Work.parkAbortFirst (w : Work) (a : Aisle) : Work :=
  let c := w.st.crane a
  match c.state with
  | .idle => (w.strandResume a).on (·.sendPark a)
  | .resting => w.on (fun s => (s.setCraneState a .parked).parkedReport a)
  | .busy =>
    match c.order with
    | some o => w.on (fun s => (s.setCraneState a .aborting).send a (.abort o.tag))
    | none => w
  | .down | .aborting | .parking | .parked | .waking | .halted => w

/-- The after-order park condition arises (R97). -/
def State.parkAfterOrder (s : State) (a : Aisle) : State :=
  match (s.crane a).state with
  | .idle => s.sendPark a
  | .resting => (s.setCraneState a .parked).parkedReport a
  | .down | .busy | .aborting | .parking | .parked | .waking | .halted => s

/-! ### The end of an order -/

/-- The end of the order of a job at DONE, by the row of the job's kind (R88). -/
def Work.complete (w : Work) (a : Aisle) (j : Nat) (r : Job) : Work :=
  let b := r.bin
  match r.kind with
  | .fetch =>
    match r.dest with
    | .station t => (w.on (·.setBinState b (.enRoute t))).leaveQueue a j
    | _ => w
  | _ =>
    match ((w.st.bin b).state.reserved?).or r.destSlot? with
    | some x =>
      (((w.on (·.storeBin b x)).endJob j r).on (·.setOwner b .none)).storageGrant b
    | none => w

/-- A VERIFY result for a slot and the expected bin (R21). A number above 16,383, for which there is no bin
record, is taken as that of an UNUSED bin (log 41 DESIGN CHOICE). -/
def Work.verifyResult (w : Work) (x : SlotAddr) (e : Nat) (read : Option Nat) : Work :=
  let lost := fun (w : Work) => w.makeUncertain e .unknown .uncertain
  match read with
  | none => lost w
  | some u =>
    if u = e then
      (w.on (·.modBin e (fun r => { r with audit := false }))).storageGrant e
    else
      match (w.st.bin u).state with
      | .uncertain =>
        ((lost w).on (fun s =>
          ((s.storeBin u x).modBin u (fun r => { r with audit := false })).setOwner u .none)).storageGrant u
      | .unused => (lost w).on (·.post .verifyConflict e u (slotArg x))
      | .stored _ | .onCrane _ | .enRoute _ | .presented _ _ | .returning _ _ | .atPort _ _ =>
        ((lost w).makeUncertain u .unknown .uncertain).on (·.post .verifyConflict e u (slotArg x))

/-! ### Halts -/

/-- A crane becomes HALTED with a fault; the tag of its order is noticed, also when the same FAULT removes
the order (R82, log 18 DEDUCED). The accept and ready timers stop (log 19 DEDUCED). -/
def State.halt (s : State) (a : Aisle) (f : CraneFault) (tag : Byte) : State :=
  let c := s.crane a
  ((s.setCrane a { c with fault := f, acceptTimer := none, readyTimer := none, clearSent := false }).setCraneState
    a .halted).post .craneFault a.val f.arg tag.toNat

/-- The tag of the outstanding order, or 0. -/
def Crane.orderTag (c : Crane) : Byte := match c.order with | some o => o.tag | none => 0

/-- The job selected for a WAKE returns to QUEUED with its lane place released (R76, R86, R89). -/
def Work.unselect (w : Work) (a : Aisle) : Work :=
  let w1 := w.on (fun s => s.setCrane a { s.crane a with selected := none })
  match (w.st.crane a).selected with
  | some j =>
    match w1.st.job j with
    | some r => w1.requeue j r
    | none => w1
  | none => w1

/-- The READY of a WAKING crane for a selected job: the job is tested again; its order is sent, or it
returns to QUEUED and the crane enters IDLE (R76, R85). -/
def Work.readyWaking (w : Work) (a : Aisle) : Work :=
  match (w.st.crane a).selected with
  | some j =>
    match w.st.job j with
    | some r =>
      if w.st.commonConditions a && w.st.kindEligible j r true then
        w.on (fun s => (s.setCrane a { s.crane a with selected := none }).sendOrderFor a j r)
      else (w.unselect a).enterIdle a
    | none => (w.unselect a).enterIdle a
  | none => w.enterIdle a

end Sys2Proof.Machine
end

