-- ==== Sys2Proof/Machine/FireOps.lean ====
section
/-! DEFINITION. The fire interlock: residence expiries (R115), stations held and restored (R107), the wing
authority and supervision (R186, R187), aisle zones leaving and returning to NORMAL (R178, R184), the securing
sequence (R179), discharge and rearm (R182), the front end (R185), and filtered lines (R176). -/

namespace Sys2Proof.Machine

/-! ### Residence (R115) -/

/-- The expiry of the fill residence at a position of S4 outside FIRE_HOLD: the fill release is taken; when
it meets NO_SLOT the timer restarts, and a later change of the limit counts from there (R115, R172, log 35 DEDUCED). -/
def Work.fillExpire (w : Work) (p : Pos) : Work :=
  match w.fillRelease p with
  | (w', true) => w'
  | (w', false) => w'.on (fun s => s.setPosition fillStation p
      { s.position fillStation p with
        restart := some s.svp.tick
        deadline := some (s.svp.tick.after (s.residenceTicks fillStation)) })

/-- The expiry of a residence timer (R115). -/
def Work.residenceExpire (w : Work) (t : StationNo) (p : Pos) : Work :=
  match w.st.binAt t p with
  | some b =>
    if t = fillStation ∧ !(w.st.station t).inHold then w.fillExpire p
    else
      w.on (fun s =>
        (s.setPosition t p { s.position t p with
            deadline := none
            attention := true
            expiredInHold := t = fillStation }).post .residence (placeArg t p) b 0)
  | none => w

/-! ### Stations held and restored (R107) -/

/-- A station takes no part in releases while Z4 is not NORMAL: it enters FIRE_HOLD with its state as
prior state (R107). -/
def State.holdStation (s : State) (t : StationNo) : State :=
  let r := s.station t
  match r.state with
  | .normal o => s.setStation t { r with state := .fireHold o }
  | .fireHold _ => s

/-- Z4 has left NORMAL: every station is held; an S4 that leaves OPEN has its fill fetches withdrawn (R107,
R170). -/
def Work.holdStations (w : Work) : Work :=
  let wasOpen := (w.st.station fillStation).isOpen
  let w1 := w.on (fun s => s.each allStations State.holdStation)
  if wasOpen then w1.withdrawFills else w1

/-- A station in FIRE_HOLD takes its prior state; a DRAINING one that is empty becomes CLOSED (R107). -/
def State.restoreStation (s : State) (t : StationNo) : State :=
  let r := s.station t
  match r.state with
  | .fireHold o => (s.setStation t { r with state := .normal o }).drainTest t
  | .normal _ => s

/-- The fill releases held over for residence expiries during the hold (R107, R115). -/
def Work.heldRelease (w : Work) (p : Pos) : Work :=
  if (w.st.position fillStation p).expiredInHold then
    (w.on (fun s => s.setPosition fillStation p
      { s.position fillStation p with expiredInHold := false })).fillExpire p
  else w

/-- Z4 has become NORMAL: stations are restored, a selection is taken in every aisle, the held fill
releases are taken, then the tray is drained or the fill bins tested (R74, R107, R172). -/
def Work.restoreStations (w : Work) : Work :=
  let w1 := w.on (fun s => (s.each allStations State.restoreStation).selectAll)
  let w2 := (w1.heldRelease 0).heldRelease 1
  if (w2.st.station fillStation).isOpen then
    ((w2.drain 0).drain 1).note (fun o => { o with choose := true })
  else (w2.fillTestDue 0).fillTestDue 1

/-- A station has turned OPEN: a selection in every aisle; at S4 the fill bins already presented are
drained and the supply starts (R105, R171, R173). -/
def Work.turnedOpen (w : Work) (t : StationNo) : Work :=
  let w1 := w.on State.selectAll
  if t = fillStation then ((w1.drain 0).drain 1).note (fun o => { o with choose := true }) else w1

/-! ### Authority and supervision (R186, R187) -/

/-- Wakes every PARKED crane that may wake, in rising order of aisle (R99). -/
def State.wakeAll (s : State) : State := s.each allAisles State.wakeParked

/-- Applies a change of the claims; a change of the authority state posts AUTHORITY and parks or wakes the
cranes (R97, R99, R186). -/
def State.withClaims (s : State) (f : Fiu → Fiu) : State :=
  let old := s.authority
  let s1 := { s with fiu := f s.fiu }
  if s1.authority = old then s1
  else
    let s2 := s1.post .authority s1.authority.code 0 0
    if old = .library then
      s2.each (allAisles.filter s2.zoneNormal) State.parkAfterOrder
    else if s2.authority = .library then s2.wakeAll.selectAll
    else s2

/-- The building claim that the filtered lines give (R186). -/
def Fiu.buildingClaimNow (f : Fiu) : Bool :=
  f.building.filtered || f.zones.any (fun z => z.lines.pre.filtered || z.lines.dis.filtered)

/-- Re-evaluates the building claim (R186). -/
def State.evalBuilding (s : State) : State :=
  s.withClaims (fun f => { f with buildingClaim := f.buildingClaimNow })

/-- The expiry tick of a supervision timer started now; none for a period of 0 (R187). -/
def State.supervisionStart (s : State) : Option Tick :=
  if s.rsc.settings.interlock.supervision = 0 then none
  else some (s.svp.tick.after (seconds s.rsc.settings.interlock.supervision))

/-- The end of a lapse: a selection in every aisle, and PARKED cranes wake (R74, R99, R187). -/
def State.lapseEnded (s : State) : State := s.selectAll.wakeAll

/-- An expiry of supervision: the first lapses it, the second clears the library claim (R187). -/
def State.superviseExpire (s : State) : State :=
  if s.fiu.lapsed then
    s.withClaims (fun f => { f with libraryClaim := false, lapsed := false, supTimer := none })
  else
    let e := s.fiu.epoch + 1
    { s with fiu.lapsed := true, fiu.epoch := e, fiu.supTimer := s.supervisionStart }.post
      .supervisionLapse e.toNat 0 0

/-! ### Zones -/

/-- Moves a zone to a state and posts ZONE (R177, R185). -/
def State.setZoneState (s : State) (z : ZoneNo) (st : ZoneState) : State :=
  (s.setZone z { s.zone z with state := st }).post .zone z.val st.code 0

/-- From a reset until mount has run owners are neither read nor written (R41, R190). -/
def State.ownersStand (s : State) : Bool := s.svp.mountState = .mounted

/-- Gives a bin an owner, when owners stand (R41). -/
def State.giveOwner (s : State) (b : Nat) (o : Owner) : State := if s.ownersStand then s.setOwner b o else s

/-- A bin at the port of an aisle becomes FIRE-owned; the PUTAWAY that owned it is recorded against it
(R53, R178). -/
def State.firePortBin (s : State) (b : Nat) : State :=
  match (s.bin b).owner with
  | .job j => { (s.setOwner b .fire) with clu.fireJobs := Tab.put s.clu.fireJobs b j }
  | _ => s.setOwner b .fire

/-- A RETURNING bin is re-planned by a wing search over some aisles: a slot found is reserved and the bin
passes to owner NONE, also from FIRE at a securing, where R178 says so and R53 says that it stays FIRE-owned (log 61
DESIGN CHOICE); otherwise it is FIRE-owned with no reservation (R55, R178, R184). -/
def State.replan (s : State) (as : List Aisle) (b : Nat) : State :=
  let s1 := s.releaseReservation b
  match s1.wingSearch (s1.bin b).height (s1.bin b).climate as with
  | some (x, _) => ((s1.setBinState b (.returning x.aisle none)).reserve b x).giveOwner b .none
  | none => s1.giveOwner b .fire

/-- The bins RETURNING to an aisle, in rising order. -/
def State.returningTo (s : State) (a : Aisle) : List Nat :=
  (s.rsc.bins.filter (fun e =>
    match e.2.state with
    | .returning c _ => c = a
    | _ => false)).map Prod.fst

/-- The RETURNING bins that are FIRE-owned, in rising order; none while owners do not stand (R190). -/
def State.returningFire (s : State) : List Nat :=
  if !s.ownersStand then [] else
  (s.rsc.bins.filter (fun e =>
    match e.2.state with
    | .returning _ _ => e.2.owner = .fire
    | _ => false)).map Prod.fst

/-- The bins at the port of an aisle, buffer first; none count while owners do not stand (R190). -/
def State.portBins (s : State) (a : Aisle) : List Nat :=
  if s.ownersStand then (s.crane a).buffer ++ (s.crane a).overflow else []

/-- An aisle zone has left NORMAL (R178). A FIRE-owned RETURNING bin for which its re-planning finds a slot passes to
owner NONE, as step 3 of R178 says against the last sentence of R53 (log 61 DESIGN CHOICE). -/
def Work.leaveNormal (w : Work) (a : Aisle) : Work :=
  let w1 := w.parkAbortFirst a
  w1.on (fun s =>
    let s1 := s.each (s.portBins a) State.firePortBin
    let s2 := s1.setQueue a { s1.queue a with deferred := [] }
    s2.each (s2.returningTo a) (fun s b => s.replan (allAisles.filter (· ≠ a)) b))

/-- A securing sequence is running: the park timer, or the shutter timer of a closing. -/
def Zone.securingRuns (r : Zone) : Bool :=
  r.parkTimer.isSome || (r.shutterTimer.isSome && !r.reopenPending)

/-- Starts the securing of an aisle zone: the shutter step at once when the crane is parked, otherwise
the park timer. A running sequence goes on (R179). -/
def State.startSecuring (s : State) (a : Aisle) : State :=
  let r := s.zone a.zone
  if r.securingRuns then s
  else if (s.crane a).parkedFlag then s.shutterStep a.zone
  else s.setZone a.zone { r with
    parkTimer := some (s.svp.tick.after (seconds s.rsc.settings.interlock.park)) }

/-- Abandons a reopening: reopen pending is cleared, the command returns to CLOSE, the timer stops
(R183). -/
def State.abandonReopen (s : State) (z : ZoneNo) : State :=
  let r := s.zone z
  if r.reopenPending then
    s.setZone z { r with reopenPending := false, shutterCmd := .close, shutterTimer := none }
  else s

/-- A discharge in an aisle: the latch, the audit-pending flags, the queue (R9, R63, R182), with AISLE_STOPPED when
the queue was STOPPING (R64, log 22 DEDUCED). -/
def State.discharge (s : State) (a : Aisle) : State :=
  let s1 := s.setZone a.zone { s.zone a.zone with latch := true }
  let s2 := { s1 with rsc.bins := s1.rsc.bins.map (fun (e : Nat × Bin) =>
    if (e.2.state.storedAt?).any (fun (x : SlotAddr) => x.aisle = a) then (e.1, { e.2 with audit := true }) else e) }
  s2.stopQueue a (some .latch)

/-- The state that an input taken active moves an aisle zone to (R177). -/
def activeTarget (dis : Bool) : ZoneState → Option ZoneState
  | .normal => some (if dis then .discharged else .securing)
  | .standby => some (if dis then .discharged else .securing)
  | .securing => if dis then some .discharged else none
  | .secured => if dis then some .discharged else none
  | .discharged => none

/-- ALARM, FAULT, PRE or DIS taken active in an aisle zone (R177). -/
def Work.aisleActive (w : Work) (a : Aisle) (dis : Bool) : Work :=
  let old := (w.st.zone a.zone).state
  match activeTarget dis old with
  | none => w
  | some new =>
    let w1 := w.on (fun s => (s.abandonReopen a.zone).setZoneState a.zone new)
    let w2 := if old = .normal then w1.leaveNormal a else w1
    let w3 := if old = .normal ∨ old = .standby then w2.on (·.startSecuring a) else w2
    if dis then w3.on (·.discharge a) else w3

/-- The state that an input taken active moves Z4 to (R185). -/
def frontTarget (dis : Bool) : ZoneState → Option ZoneState
  | .normal => some (if dis then .discharged else .secured)
  | .standby => some (if dis then .discharged else .secured)
  | .secured => if dis then some .discharged else none
  | .securing => if dis then some .discharged else none
  | .discharged => none

/-- ALARM, FAULT, PRE or DIS taken active in Z4 (R185). -/
def Work.frontActive (w : Work) (dis : Bool) : Work :=
  let old := (w.st.zone frontEnd).state
  match frontTarget dis old with
  | none => w
  | some new =>
    let w1 := w.on (·.setZoneState frontEnd new)
    if old = .normal then w1.holdStations else w1

/-- The last active input of a zone taken inactive: SECURING and SECURED become STANDBY; so does a
DISCHARGED Z4, which has no latch (R177, R185). -/
def State.zoneQuiet (s : State) (z : ZoneNo) : State :=
  match (s.zone z).state with
  | .securing | .secured => s.setZoneState z .standby
  | .discharged => if z = frontEnd then s.setZoneState z .standby else s
  | .normal | .standby => s

/-- REARM taken: in an inactive aisle zone the latch is cleared and a DISCHARGED zone becomes STANDBY
(R182). -/
def State.rearm (s : State) (z : ZoneNo) : State :=
  let r := s.zone z
  if z = frontEnd ∨ r.isActive then s
  else
    let s1 := s.setZone z { r with latch := false }
    if r.state = .discharged then s1.setZoneState z .standby else s1

/-- One of the five lines of a zone. -/
def ZoneLines.get (l : ZoneLines) : ZoneLine → Line
  | .alarm => l.alarm | .fault => l.fault | .pre => l.pre | .dis => l.dis | .rearm => l.rearm

/-- Writes one of the five lines of a zone. -/
def ZoneLines.set (l : ZoneLines) (k : ZoneLine) (v : Line) : ZoneLines :=
  match k with
  | .alarm => { l with alarm := v }
  | .fault => { l with fault := v }
  | .pre => { l with pre := v }
  | .dis => { l with dis := v }
  | .rearm => { l with rearm := v }

/-- Writes a line of a zone. -/
def State.setLine (s : State) (z : ZoneNo) (k : ZoneLine) (v : Line) : State :=
  s.setZone z { s.zone z with lines := (s.zone z).lines.set k v }

/-- A filtered change of a zone line is taken: the zone's event, then the building claim (R176, R177, R182,
R185, R186). -/
def Work.takeLine (w : Work) (z : ZoneNo) (k : ZoneLine) (level : Bool) : Work :=
  let w1 := w.on (·.setLine z k { level := level, filtered := level, count := none })
  let w2 :=
    match k, level with
    | .rearm, true => w1.on (·.rearm z)
    | .rearm, false => w1
    | _, true =>
      match z.aisle? with
      | some a => w1.aisleActive a (k = ZoneLine.dis)
      | none => w1.frontActive (k = ZoneLine.dis)
    | _, false => if (w1.st.zone z).isActive then w1 else w1.on (·.zoneQuiet z)
  w2.on State.evalBuilding

/-- A filtered change of the building authority line is taken (R186). -/
def State.takeBuilding (s : State) (level : Bool) : State :=
  { s with fiu.building := { level := level, filtered := level, count := none } }.evalBuilding

/-- The line at a change of its level: a count starts, or stops when the level is back (R176). The flag
says that the change is taken at once, with a filter time of 0 (log 38 DEDUCED). -/
def Line.change (l : Line) (level : Bool) (now : Tick) (filter : Nat) : Line × Bool :=
  if level = l.level then (l, false)
  else if level = l.filtered then ({ l with level := level, count := none }, false)
  else if filter = 0 then ({ l with level := level }, true)
  else ({ l with level := level, count := some (now.after filter) }, false)

/-- The filter count of a line is due (R176). -/
def Line.due (l : Line) (now : Tick) : Bool :=
  match l.count with
  | some t => t.reached now
  | none => false

/-! ### Reopening an aisle zone (R184) -/

/-- A FIRE-owned bin passes to the job recorded against it, if there is one (R54). -/
def State.handBack (s : State) (b : Nat) : State :=
  match Tab.find s.clu.fireJobs b with
  | some j => { (s.setOwner b (.job j)) with clu.fireJobs := Tab.del s.clu.fireJobs b }
  | none => s

/-- The FIRE-owned bins on the crane of an aisle: those against which a job of that aisle is recorded (R53); none
while owners do not stand (R190). -/
def State.fireOnCrane (s : State) (a : Aisle) : List Nat :=
  (s.clu.fireJobs.filter (fun e =>
    s.ownersStand && (s.bin e.1).owner = .fire && (s.job e.2).any (fun r => r.aisle = some a) &&
      (match (s.bin e.1).state with
       | .onCrane _ => true
       | _ => false))).map Prod.fst

/-- Hands back the FIRE-owned bin on the crane: a waiting PUTBACK joins the queue, and the bin passes to the job
recorded against it, its PUTBACK or, after a PICKED taken while ABORTING, its PUTAWAY (R53, R54, R184). -/
def State.handBackCrane (s : State) (a : Aisle) : State :=
  let s1 := match (s.queue a).putback with
    | some j => s.setQueue a { s.queue a with jobs := (s.queue a).jobs ++ [j], putback := none }
    | none => s
  s1.each (s1.fireOnCrane a) State.handBack

/-- Takes a bin out of an aisle's buffer and overflow list. -/
def State.unport (s : State) (a : Aisle) (b : Nat) : State := s.setCrane a ((s.crane a).leavePort b)

/-- Hands back one FIRE-owned bin at the port: to its PUTAWAY, or as a new port arrival (R54, log 24 DEDUCED). -/
def Work.handBackPort (w : Work) (a : Aisle) (b : Nat) : Work :=
  if (w.st.bin b).owner = .fire then
    if (Tab.find w.st.clu.fireJobs b).isSome then w.on (·.handBack b)
    else (w.on (fun s => (s.unport a b).setOwner b .none)).portArrival a (some b)
  else w

/-- The pages held for a zone are placed again (R181, R184). -/
def State.placeHeldPages (s : State) (z : ZoneNo) : State :=
  s.each (s.circ.pages.filter (·.state = .held z)) (fun s g => s.placePage g)

/-- The HELD fill entries of a zone are placed again, or removed when S4 is not OPEN (R171, R184). -/
def Work.placeHeldFills (w : Work) (z : ZoneNo) : Work :=
  w.each (w.st.riu.fills.filter (·.state = .held z)) (fun w e =>
    if (w.st.station fillStation).isOpen then w.retryFill e.bin else w.dropFill e.bin)

/-- An aisle zone becomes NORMAL at the open confirmation (R54, R55, R74, R184). -/
def Work.reopenAisle (w : Work) (a : Aisle) : Work :=
  let w1 := w.on (fun s =>
    (s.setZone a.zone { s.zone a.zone with shutterTimer := none, reopenPending := false }).setZoneState
      a.zone .normal)
  let w2 := w1.on (·.handBackCrane a)
  let w3 := w2.each (w2.st.portBins a) (fun w b => w.handBackPort a b)
  let w4 := w3.on (fun s => s.each s.returningFire (fun s b => s.replan allAisles b))
  let w5 := (w4.on (·.placeHeldPages a.zone)).placeHeldFills a.zone
  let w6 := if w5.st.riu.noQualifier then w5.note (fun o => { o with choose := true }) else w5
  w6.on (fun s => (s.wakeParked a).selectAisle a)

/-- A front-end zone becomes NORMAL (R185). -/
def Work.reopenFront (w : Work) : Work := (w.on (·.setZoneState frontEnd .normal)).restoreStations

end Sys2Proof.Machine
end

