-- ==== Sys2Proof/Machine/Lending.lean ====
section
/-! DEFINITION. Lending: the calendar (R132), due days (R137), loan closure (R142), recalls (R156), holds becoming
READY and leaving (R149, R158 to R160). -/

namespace Sys2Proof.Machine

/-! ### The calendar -/

/-- A day lies in the window and is marked closed (R132). -/
def State.isClosed (s : State) (d : Nat) : Bool :=
  s.rsc.calBase ≤ d && d < s.rsc.calBase + Config.window && s.rsc.closedDays.contains d

/-- The first open day not earlier than a day, looking no further than the window is long (R132, R137). -/
def State.firstOpenIn (s : State) : Nat → Nat → Nat
  | 0, d => d
  | fuel + 1, d => if s.isClosed d then s.firstOpenIn fuel (d + 1) else d

/-- The first open day not earlier than a day (R137). -/
def State.firstOpen (s : State) (d : Nat) : Nat := s.firstOpenIn Config.window d

/-- The loan period of an item class in a borrower class (R137). R137 gives none for REF and RARE, which
are not lent (log 12 DESIGN CHOICE). -/
def State.loanDays (s : State) (c : Fin 4) : ItemClass → Nat
  | .general => (s.policyRow c).generalDays
  | .short => (s.policyRow c).shortDays
  | .ref => Config.otherLoanDays c
  | .rare => Config.otherLoanDays c

/-- Step 2 of the due-day arithmetic: a cap day later than today holds back a later raw day (R137). -/
def capped (today cap raw : Nat) : Nat :=
  if cap ≠ 0 ∧ today < cap ∧ cap < raw then cap else raw

/-- The due day (R137). -/
def State.dueDay (s : State) (today : Nat) (c : Fin 4) (k : ItemClass) : Nat :=
  s.firstOpen (capped today (s.policyRow c).capDay (min (today + s.loanDays c k) Config.lastDay))

/-! ### Loans -/

/-- The loan an item's state refers to. -/
def ItemState.loan? : ItemState → Option Nat
  | .onLoan n => some n
  | _ => none

/-- The desk station an item's state names. -/
def ItemState.desk? : ItemState → Option StationNo
  | .atDesk t => some t
  | .holdShelf t => some t
  | _ => none

/-- The overdue days of a loan at its closure (R142). -/
def State.overdue (s : State) (r : Loan) : Nat := s.rsc.today - r.due

/-- Closes a loan; the caller writes the item's next state (R142). -/
def State.closeLoan (s : State) (acc n : Nat) (r : Loan) : State :=
  (((s.delLoan n).modBorrower r.borrower (fun b => { b with loans := b.loans - 1 })).post .returned acc
    r.borrower (s.overdue r))

/-- The recalled due day of a loan (R156). -/
def State.recallDay (s : State) (day : Nat) (r : Loan) : Nat :=
  let target := min (max (day + s.rsc.settings.recalls.grace) (r.checkout + s.rsc.settings.recalls.minLoan))
    Config.lastDay
  min (s.firstOpen target) r.due

/-- Recalls a loan (R156). -/
def State.recallLoan (s : State) (day n : Nat) : State :=
  match s.loan n with
  | some r =>
    (s.setLoan n { r with due := s.recallDay day r, recalled := true }).post .recalled r.item r.borrower
      (s.recallDay day r)
  | none => s

/-! ### Holds -/

/-- A hold of an item's queue is WAITING. -/
def State.hasWaiting (s : State) (it : Item) : Bool :=
  it.queue.any (fun h => (s.hold h).any (·.state = .waiting))

/-- The hold of a borrower in an item's queue. -/
def State.holdOf (s : State) (it : Item) (t : Nat) : Option (Nat × Hold) :=
  (it.queue.filterMap (fun h => (s.hold h).map (fun r => (h, r)))).find? (·.2.borrower = t)

/-- A hold becomes READY and its item goes on the hold shelf of a desk station (R158). A borrower that no
record holds is met in no reachable state (log 32 DESIGN CHOICE). -/
def State.makeReady (s : State) (acc : Nat) (h : Nat) (r : Hold) (desk : StationNo) : State :=
  let days := ((s.borrower r.borrower).map (fun b => (s.policyRow b.cls).pickupDays)).getD 0
  let expiry := min (s.rsc.today + days) Config.lastDay
  ((s.setHold h { r with state := .ready expiry }).setItemState acc (.holdShelf desk)).post .holdReady acc
    r.borrower (pairArg desk.val expiry)

/-- A hold leaves its item's queue and the pool; its borrower's hold count falls (R149, R150). What was delivered
for it is forgotten with it (R154). -/
def State.removeHold (s : State) (h : Nat) (r : Hold) : State :=
  let s1 := ((s.delHold h).forgetDelivered h).modBorrower r.borrower (fun b => { b with holds := b.holds - 1 })
  match s1.item r.item with
  | some it => s1.setItem r.item { it with queue := it.queue.filter (· != h) }
  | none => s1

/-- After a READY hold of a HOLD_SHELF item has left, the line passes on: the WAITING hold now first becomes
READY at the same desk station, or the item becomes AT_DESK at S5 (R159, R160). -/
def State.passOn (s : State) (acc : Nat) : State :=
  match s.item acc with
  | some it =>
    match it.state with
    | .holdShelf desk =>
      match s.firstWaiting it with
      | some (h, r) => s.makeReady acc h r desk
      | none => s.setItem acc { it with state := .atDesk serviceStation }
    | .shelved _ _ | .atDesk _ | .onLoan _ | .inTray | .missing => s
  | none => s

/-- A hold is READY. -/
def Hold.isReady (r : Hold) : Bool :=
  match r.state with
  | .ready _ => true
  | .waiting => false

/-- The SHELVED items of a bin, in ascending order (R37). -/
def State.itemsIn (s : State) (b : Nat) : List (Nat × Item × Fin 8) :=
  s.rsc.items.filterMap (fun e =>
    match e.2.state.shelvedIn with
    | some (c, k) => if c = b then some (e.1, e.2, k) else none
    | none => none)

/-- A SHELVED item becomes MISSING, and its page is withdrawn (R35, R155). -/
def Work.goMissing (w : Work) (acc : Nat) : Work :=
  match w.st.item acc with
  | some it => (w.on (·.unshelve acc it .missing)).withdrawItemPage acc
  | none => w

end Sys2Proof.Machine
end

