-- ==== Sys2Proof/Machine/Bins.lean ====
section
/-! DEFINITION. The bin and slot requests (chapter 1): ADD_BIN, RETIRE_BIN, RESOLVE_BIN, SET_SLOT, SET_AISLE,
SLOT_QUERY, BIN_INFO, SLOT_INFO, MOVE_BIN. -/

namespace Sys2Proof.Machine

/-- A height class as its value. -/
def Height.code : Height → Nat
  | .standard => 1 | .tall => 2
/-- A climate class as its value. -/
def Climate.code : Climate → Nat
  | .general => 0 | .controlled => 1

/-! ### ADD_BIN (R15) -/

/-- ADD_BIN into a slot. -/
def State.addBinAt (s : State) (b : Nat) (ht : Height) (cl : Climate) (x : SlotAddr) : State :=
  let r : Bin := { Bin.unused with state := .stored x, height := ht, climate := cl, audit := true }
  ((s.setBin b r).setSlotState x (.occupied b)).begin.storageGrant b |>.settle

/-- ADD_BIN at a station position. -/
def State.addBinPresented (s : State) (b : Nat) (ht : Height) (cl : Climate) (t : StationNo) (p : Pos) :
    State :=
  let r : Bin := { Bin.unused with state := .presented t p, height := ht, climate := cl }
  ((((s.setBin b r).present b t p false).begin).afterPresent b t p).settle

/-- ADD_BIN (R15). -/
def execAddBin (h : Hdr) (bin height climate : Nat) (place : BinPlace) (s : State) : Out :=
  serve h s (fun s =>
    match height? height, climate? climate, place with
    | some ht, some cl, .slot raw =>
      match slot? raw with
      | some x =>
        let r : Bin := { Bin.unused with height := ht, climate := cl }
        if !binOk bin then refused s .badArgument
        else if (s.bin bin).state ≠ .unused then refused s .binInUse
        else if (s.slot x).state ≠ .free ∨ (s.slot x).held.isSome then refused s .slotNotFree
        else if !fits r (s.slot x) then refused s .badAttribute
        else (s.addBinAt bin ht cl x, refuse .done)
      | none => refused s .badArgument
    | some ht, some cl, .position st po =>
      match station? st, pos? po with
      | some t, some p =>
        if !binOk bin then refused s .badArgument
        else if (s.bin bin).state ≠ .unused then refused s .binInUse
        else if (s.position t p).content ≠ .empty then refused s .positionNotFree
        else if cl = .controlled ∧ noControlled t then refused s .notPermitted
        else (s.addBinPresented bin ht cl t p, refuse .done)
      | _, _ => refused s .badArgument
    | _, _, _ => refused s .badArgument)

/-! ### RETIRE_BIN (R16) -/

/-- Takes a presented bin out of service (R16). -/
def State.retire (s : State) (b : Nat) (t : StationNo) (p : Pos) : State :=
  let w := (s.begin.emptyPosition t p).dropFill b
  (w.on (·.setBin b Bin.unused)).settle

/-- RETIRE_BIN (R16). -/
def execRetireBin (h : Hdr) (bin : Nat) (s : State) : Out :=
  serve h s (fun s =>
    if !binOk bin then refused s .badArgument
    else
      match (s.bin bin).state with
      | .presented t p =>
        if (s.bin bin).count ≠ 0 then refused s .notEmpty
        else if (s.oldestClaim bin).isSome then refused s .claimed
        else (s.retire bin t p, refuse .done)
      | _ => refused s .notPresented)

/-! ### RESOLVE_BIN (R17, R18) -/

/-- The states in which RESOLVE_BIN at slot or lost takes a bin (R17). -/
def resolvable : BinState → Bool
  | .uncertain | .enRoute _ | .returning _ _ => true
  | .unused | .stored _ | .onCrane _ | .presented _ _ | .atPort _ _ => false

/-- Makes a bin whose arrival the host has given up UNCERTAIN (R17). -/
def Work.giveUp (w : Work) (b : Nat) : Work :=
  if (w.st.bin b).state = .uncertain then w else w.makeUncertain b .unknown .uncertain

/-- RESOLVE_BIN at slot (R17): the slot is taken first. Then what the job of a bin given up frees is offered, and the
bin's own oldest claim takes its turn among the pending grants (R52, R61, log 7 DESIGN CHOICE). -/
def State.resolveAt (s : State) (b : Nat) (x : SlotAddr) : State :=
  (((s.begin.giveUp b).on (fun s =>
    (s.storeBin b x).modBin b (fun r => { r with audit := true }))).offerFreed.storageGrant b).settle

/-- A claim on a bin that is lost fails its claimant (R47). -/
def Work.failClaim (w : Work) (c : Claim) : Work :=
  let w1 := w.withdrawClaim c
  match c.claimant with
  | .single => w1.on (·.fetchFailed c.bin .lost)
  | .batch n _ => (w1.on (·.turnEntry n c.bin .failed)).paceDue
  | .page h => w1.withdrawPage h
  | .fill => w1.dropFill c.bin

/-- RESOLVE_BIN lost: its items become MISSING, its claims fail, its record becomes UNUSED (R17, R47). -/
def State.resolveLost (s : State) (b : Nat) : State :=
  let w1 := s.begin.giveUp b
  let w2 := w1.each (w1.st.itemsIn b) (fun w e => w.goMissing e.1)
  let w3 := w2.each (w2.st.claimsOn b) Work.failClaim
  (w3.on (fun s => (s.setBinState b .unused).setBin b Bin.unused)).settle

/-- RESOLVE_BIN at position with a bin (R18). -/
def State.resolvePresented (s : State) (b : Nat) (t : StationNo) (p : Pos) : State :=
  (if (s.bin b).state = .uncertain then ((s.present b t p false).begin).afterPresent b t p
   else s.begin.arrive t p b false).settle

/-- RESOLVE_BIN (R17, R18). -/
def execResolveBin (h : Hdr) (r : Resolution) (s : State) : Out :=
  serve h s (fun s =>
    match r with
    | .atSlot bin raw =>
      match slot? raw with
      | some x =>
        if !binOk bin then refused s .badArgument
        else if !resolvable (s.bin bin).state then refused s .notUncertain
        else if ((s.slot x).state ≠ .free ∧ (s.slot x).state ≠ .reserved bin) ∨ (s.slot x).held.isSome then
          refused s .slotNotFree
        else if !fits (s.bin bin) (s.slot x) then refused s .badAttribute
        else (s.resolveAt bin x, refuse .done)
      | none => refused s .badArgument
    | .lost bin =>
      if !binOk bin then refused s .badArgument
      else if !resolvable (s.bin bin).state then refused s .notUncertain
      else (s.resolveLost bin, refuse .done)
    | .atPosition st po named =>
      match station? st, pos? po with
      | some t, some p =>
        let content := (s.position t p).content
        if named.any (fun b => !binOk b) then refused s .badArgument
        else if (s.binAt t p).isSome then refused s .positionNotFree
        else
          match named with
          | some b =>
            let enRoute := match (s.bin b).state with
              | .enRoute _ => content = .unknown
              | _ => false
            if (s.bin b).state ≠ .uncertain ∧ !enRoute then refused s .notUncertain
            else if (s.bin b).climate = .controlled ∧ noControlled t then refused s .notPermitted
            else (s.resolvePresented b t p, refuse .done)
          | none =>
            if content ≠ .unknown then refused s .notUnknown
            else ((s.begin.emptyPosition t p).settle, refuse .done)
      | _, _ => refused s .badArgument)

/-! ### SET_SLOT, SET_AISLE (R5, R6) -/

/-- The bin that occupies a slot, or for which it is reserved or held (R5). -/
def State.slotBin (s : State) (x : SlotAddr) : Option Nat :=
  match (s.slot x).state with
  | .occupied b => some b
  | .reserved b => some b
  | .free => (s.slot x).held.bind (fun j => (s.job j).map (·.bin))

/-- SET_SLOT (R5). The refusals concern a class that would change: a change of blocked alone is always
accepted. -/
def execSetSlot (h : Hdr) (raw : RawSlot) (height climate : Nat) (blocked : Bool) (s : State) : Out :=
  serve h s (fun s =>
    match slot? raw, height? height, climate? climate with
    | some x, some ht, some cl =>
      let r := s.slot x
      if (cl ≠ r.climate ∧ (r.state ≠ .free ∨ r.held.isSome)) ∨
          (ht = .standard ∧ r.height ≠ .standard ∧ (s.slotBin x).any (fun b => (s.bin b).height = .tall)) then
        refused s .occupied
      else (s.setSlot x { r with height := ht, climate := cl, blocked := blocked }, refuse .done)
    | _, _, _ => refused s .badArgument)

/-- SET_AISLE (R6). -/
def execSetAisle (h : Hdr) (aisle : Nat) (inService : Bool) (s : State) : Out :=
  serve h s (fun s =>
    match aisle? aisle with
    | some a => ({ s with rsc.inService := s.rsc.inService.set a inService }, refuse .done)
    | none => refused s .badArgument)

/-! ### Lookups (R14, R20) -/

/-- SLOT_QUERY (R14). The set of aisles is one byte of the frame, bit k for aisle k; a byte with one of its bits 4 to 7
set is no command of the model (log 14 DESIGN CHOICE). -/
def execSlotQuery (h : Hdr) (height climate : Nat) (aisles : BitVec 4) (s : State) : Out :=
  serve h s (fun s =>
    match height? height, climate? climate with
    | some ht, some cl =>
      if aisles = 0 then refused s .badArgument
      else
        match s.wingSearch ht cl (allAisles.filter (fun a => aisles.getLsbD a.val)) with
        | some (x, cost) => (s, doneWith [slotField x, u16 cost])
        | none => refused s .noSlot
    | _, _ => refused s .badArgument)

/-- A bin's state and the location fields present in it (R7). -/
def BinState.fields : BinState → List Field
  | .unused => [u8 0]
  | .stored x => [u8 1, slotField x]
  | .onCrane r => [u8 2, optSlot r]
  | .enRoute t => [u8 3, u8 t.val]
  | .presented t p => [u8 4, u8 t.val, u8 p.val]
  | .returning a r => [u8 5, u8 a.val, optSlot r]
  | .atPort a r => [u8 6, u8 a.val, optSlot r]
  | .uncertain => [u8 7]

/-- A bin's owner: which kind, and the job or station number or absent (R7, R41, log 9 DESIGN CHOICE). -/
def Owner.fields : Owner → List Field
  | .none => [u8 0, .absent 1]
  | .job j => [u8 1, u8 j]
  | .station t => [u8 2, u8 t.val]
  | .fire => [u8 3, .absent 1]

/-- A bin's classes; those of an UNUSED record are not meaningful (R7, log 11 DESIGN CHOICE). -/
def classFields (b : Nat) (r : Bin) : List Field :=
  match r.state with
  | .unused => [u8 (Config.unusedHeight b).toNat, u8 (Config.unusedClimate b).toNat]
  | _ => [u8 r.height.code, u8 r.climate.code]

/-- BIN_INFO (R20). -/
def execBinInfo (h : Hdr) (bin : Nat) (s : State) : Out :=
  serve h s (fun s =>
    if !binOk bin then refused s .badArgument
    else
      let r := s.bin bin
      (s, doneWith (r.state.fields ++ classFields bin r ++ r.owner.fields ++ [flagField r.audit] ++
        r.fills.toList.map u8 ++ [u16 r.count, u8 (s.claimsOn bin).length])))

/-- A slot's state and bin number (R1). -/
def SlotState.fields : SlotState → List Field
  | .free => [u8 0, .absent 2]
  | .occupied b => [u8 1, u16 b]
  | .reserved b => [u8 2, u16 b]

/-- SLOT_INFO (R20). -/
def execSlotInfo (h : Hdr) (raw : RawSlot) (s : State) : Out :=
  serve h s (fun s =>
    match slot? raw with
    | some x =>
      let r := s.slot x
      (s, doneWith ([slotField x] ++ r.state.fields ++
        [u8 r.height.code, u8 r.climate.code, flagField r.blocked, optField 1 r.held]))
    | none => refused s .badArgument)

/-! ### MOVE_BIN (R19) -/

/-- The SHIFT of a MOVE_BIN (R19, R57). -/
def shiftJob (b prio : Nat) (x y : SlotAddr) (t : Tick) : Job :=
  { kind := .shift, aisle := some x.aisle, bin := b, source := .slot x, dest := .slot y,
    priority := clampPriority prio, enqueued := t, origin := .single, active := false }

/-- The creation of a SHIFT with its destination held (R4, R19); its appending is a selection event.
The DONE carries no CLAMPED indication for a clamped priority (log 40 DESIGN CHOICE). -/
def State.startShift (s : State) (b prio : Nat) (x y : SlotAddr) : State × Reply :=
  match s.newJob x.aisle (shiftJob b prio x y s.svp.tick) with
  | some (s1, j) => ((s1.setHeld y (some j)).selectAisle x.aisle, doneWith [u8 j, slotField y])
  | none => refused s .queueFull

/-- The tests of a given destination, in the order of R19; none when it passes. -/
def State.destRefusal (s : State) (b : Nat) (x y : SlotAddr) : Option ResultCode :=
  if y.aisle ≠ x.aisle then some .otherAisle
  else if (s.slot y).state ≠ .free ∨ (s.slot y).held.isSome then some .slotNotFree
  else if (s.slot y).blocked then some .blocked
  else if !fits (s.bin b) (s.slot y) then some .badAttribute
  else none

/-- MOVE_BIN (R19). -/
def execMoveBin (h : Hdr) (bin priority : Nat) (dest : Option RawSlot) (s : State) : Out :=
  serve h s (fun s =>
    let given := dest.map slot?
    if !binOk bin ∨ given = some none then refused s .badArgument
    else if s.authority ≠ .library then refused s .noAuthority
    else
      match (s.bin bin).state.storedAt? with
      | none => refused s .notStored
      | some x =>
        if (s.bin bin).owner ≠ .none ∨ (s.oldestClaim bin).isSome then refused s .owned
        else
          match given with
          | some (some y) =>
            match s.destRefusal bin x y with
            | some c => refused s c
            | none => s.startShift bin priority x y
          | _ =>
            match s.aisleSearch (s.bin bin).height (s.bin bin).climate x.aisle with
            | some y => s.startShift bin priority x y
            | none => refused s .noSlot)

end Sys2Proof.Machine
end

