-- ==== Sys2Proof/Machine/Items.lean ====
section
/-! DEFINITION. The item requests (chapter 2): ADD_ITEM, WITHDRAW_ITEM, PICK_ITEM, PLACE_ITEM, MARK_MISSING,
ITEM_INFO, LIST_ITEMS. -/

namespace Sys2Proof.Machine

/-- An item class as its value (R23). -/
def ItemClass.code : ItemClass → Nat
  | .general => 0 | .short => 1 | .ref => 2 | .rare => 3

/-- An item state as its value (R23). -/
def ItemState.code : ItemState → Nat
  | .shelved _ _ => 0 | .atDesk _ => 1 | .onLoan _ => 2 | .inTray => 3 | .holdShelf _ => 4 | .missing => 5

/-- Looks up the item of an accession number carried as characters: BAD_ARGUMENT when one is not a digit,
UNKNOWN_ITEM when no record holds the number. -/
def State.withItem (s : State) (chars : List Byte) (f : Nat → Item → State × Reply) : State × Reply :=
  match accession? chars with
  | none => refused s .badArgument
  | some acc =>
    match s.item acc with
    | none => refused s .unknownItem
    | some it => f acc it

/-! ### ADD_ITEM (R29) -/

/-- ADD_ITEM (R29). -/
def execAddItem (h : Hdr) (chars : List Byte) (check : BitVec 16) (thickness cls station : Nat)
    (s : State) : Out :=
  serve h s (fun s =>
    match itemClass? cls, station? station with
    | some k, some t =>
      if thickness < 1 ∨ 40 < thickness then refused s .badArgument
      else
        match label? chars check with
        | none => refused s .badLabel
        | some acc =>
          if k = .rare ∧ t ≠ 3 ∧ t ≠ 5 then refused s .notPermitted
          else if (s.item acc).isSome then refused s .duplicate
          else if Config.itemRoom ≤ s.rsc.items.length then refused s .mapFull
          else
            (s.setItem acc { thickness := thickness, cls := k, state := .atDesk t, queue := [] },
              refuse .done)
    | _, _ => refused s .badArgument)

/-! ### WITHDRAW_ITEM (R30) -/

/-- A hold is cancelled by the withdrawal of its item (R30). -/
def Work.cancelWithItem (w : Work) (acc h : Nat) : Work :=
  match w.st.hold h with
  | some r => (w.on (fun s => (s.removeHold h r).post .holdCancelled r.borrower acc 0)).withdrawPage h
  | none => w

/-- WITHDRAW_ITEM (R30). -/
def execWithdrawItem (h : Hdr) (chars : List Byte) (s : State) : Out :=
  serve h s (fun s => s.withItem chars (fun acc it =>
    match it.state with
    | .onLoan _ => refused s .onLoan
    | .shelved _ _ => refused s .notAtDesk
    | .inTray => refused s .notAtDesk
    | .holdShelf _ => refused s .notAtDesk
    | .atDesk _ | .missing =>
      let w := s.begin.each it.queue (fun w n => w.cancelWithItem acc n)
      ((w.on (·.delItem acc)).settle, doneWith [u8 it.queue.length])))

/-! ### PICK_ITEM (R31, R32) -/

/-- The item leaves its compartment for the desk, or for the hold shelf at S5 when its first hold is
WAITING (R32); its page is withdrawn (R155). -/
def State.pick (s : State) (acc : Nat) (it : Item) (t : StationNo) : State :=
  let s1 := s.unshelve acc it (.atDesk t)
  let s2 := match s1.firstWaiting it with
    | some (h, r) => if t = serviceStation then s1.makeReady acc h r t else s1
    | none => s1
  (s2.begin.withdrawItemPage acc).settle

/-- The new state of a picked item and its desk station (R32). -/
def State.pickedState (s : State) (it : Item) (t : StationNo) : ItemState :=
  if t = serviceStation ∧ (s.firstWaiting it).isSome then .holdShelf t else .atDesk t

/-- PICK_ITEM (R31). -/
def execPickItem (h : Hdr) (chars : List Byte) (station : Nat) (s : State) : Out :=
  serve h s (fun s =>
    match station? station with
    | none => refused s .badArgument
    | some t => s.withItem chars (fun acc it =>
      match it.state.shelvedIn with
      | none => refused s .notShelved
      | some (b, k) =>
        if (s.presentedAt b t).isNone then refused s .notAtStation
        else if it.cls = .rare ∧ t ≠ 3 then refused s .notPermitted
        else
          (s.pick acc it t,
            doneWith [u8 (s.pickedState it t).code, u8 t.val, u8 ((s.bin b).fills[k] - it.thickness)])))

/-! ### PLACE_ITEM (R33, R34) -/

/-- The bins that a request considers, with their positions: the bin PRESENTED at the given position, or the bins
PRESENTED at P0 and P1 (R28, R33). -/
def State.considered (s : State) (t : StationNo) (p : Option Pos) : List (Pos × Nat) :=
  (match p with
    | some q => [q]
    | none => [0, 1]).filterMap (fun q => (s.presentedBin t q).map (fun b => (q, b)))

/-- The compartment of a bin that has room: the given one, or by automatic placement (R33). -/
def Bin.place (r : Bin) (t : Nat) (k : Option (Fin 8)) : Option (Fin 8) :=
  match k with
  | some c => if r.hasRoom t c then some c else none
  | none => r.autoPlace t

/-- The first considered bin of the right climate with room, with its position and compartment (R33). -/
def State.firstRoom (s : State) (bins : List (Pos × Nat)) (cl : Climate) (t : Nat) (k : Option (Fin 8)) :
    Option (Pos × Nat × Fin 8) :=
  bins.findSome? (fun e =>
    if (s.bin e.2).climate = cl then ((s.bin e.2).place t k).map (fun c => (e.1, e.2, c)) else none)

/-- An accepted PLACE_ITEM: the item is SHELVED, its first WAITING hold is paged, and a fill bin at S4
tested (R34). -/
def State.placeInto (s : State) (acc : Nat) (it : Item) (t : StationNo) (p : Pos) (b : Nat) (k : Fin 8) :
    State :=
  let w := (s.begin.on (fun s => (s.shelve acc it b k).createPage acc))
  (if t = fillStation then w.fillTestDue p else w).settle

/-- An optional operand in its range. -/
def optIn {α : Type} (f : Nat → Option α) (o : Option Nat) : Option (Option α) :=
  match o with
  | none => some none
  | some n => (f n).map some

/-- PLACE_ITEM (R33). -/
def execPlaceItem (h : Hdr) (chars : List Byte) (station : Nat) (position compartment : Option Nat)
    (s : State) : Out :=
  serve h s (fun s =>
    match station? station, optIn pos? position, optIn compartment? compartment with
    | some t, some p, some k => s.withItem chars (fun acc it =>
      match it.state with
      | .atDesk _ =>
        let bins := s.considered t p
        if bins.isEmpty then refused s .noBin
        else if !bins.any (fun e => (s.bin e.2).climate = it.cls.climate) then refused s .climate
        else
          match s.firstRoom bins it.cls.climate it.thickness k with
          | none => refused s .noRoom
          | some (q, b, c) =>
            (s.placeInto acc it t q b c,
              doneWith [u16 b, u8 q.val, u8 c.val, u8 ((s.bin b).fills[c] + it.thickness)])
      | _ => refused s .notAtDesk)
    | _, _, _ => refused s .badArgument)

/-! ### MARK_MISSING (R35) -/

/-- MARK_MISSING (R35). -/
def execMarkMissing (h : Hdr) (chars : List Byte) (s : State) : Out :=
  serve h s (fun s => s.withItem chars (fun acc it =>
    match it.state with
    | .shelved _ _ => ((s.begin.goMissing acc).settle, refuse .done)
    | _ => refused s .notShelved))

/-! ### Lookups (R36, R37) -/

/-- A hold's state and expiry day (R149). -/
def HoldState.fields : HoldState → List Field
  | .waiting => [u8 0, .absent 2]
  | .ready d => [u8 1, u16 d]

/-- The location, desk station and loan of an item, each absent in the states that do not have it (R36, log 9
DESIGN CHOICE). -/
def State.itemStateFields (s : State) (it : Item) : List Field :=
  [optField 2 (it.state.shelvedIn.map (·.1)), optField 1 (it.state.shelvedIn.map (·.2.val)),
    optField 1 (it.state.desk?.map Fin.val)] ++
  (match it.state.loan?.bind s.loan with
    | some r => [u24 r.borrower, u16 r.checkout, u16 r.due, u8 r.renewals, flagField r.recalled]
    | none => [.absent 3, .absent 2, .absent 2, .absent 1, .absent 1])

/-- The hold queue of an item in order (R36). -/
def State.queueFields (s : State) (it : Item) : List Field :=
  listFields it.queue (fun h =>
    match s.hold h with
    | some r => [u24 r.borrower, u16 r.placed] ++ r.state.fields
    | none => [.absent 3, .absent 2, .absent 1, .absent 2])

/-- ITEM_INFO (R36). -/
def execItemInfo (h : Hdr) (chars : List Byte) (s : State) : Out :=
  serve h s (fun s => s.withItem chars (fun acc it =>
    (s, doneWith ([accField acc, u8 it.thickness, u8 it.cls.code, u8 it.state.code] ++
      s.itemStateFields it ++ s.queueFields it ++ [u16 (crc (accessionChars acc)).toNat]))))

/-- The cursor of LIST_ITEMS: START, or an accession number; none when it is neither (R37). -/
def cursor? : ListCursor → Option (Option Nat)
  | .start => some none
  | .after cs => (accession? cs).map some

/-- LIST_ITEMS (R37). -/
def execListItems (h : Hdr) (bin : Nat) (cursor : ListCursor) (s : State) : Out :=
  serve h s (fun s =>
    match cursor? cursor with
    | none => refused s .badArgument
    | some c =>
      if !binOk bin then refused s .badArgument
      else
        let later := (s.itemsIn bin).filter (fun e => c.all (· < e.1))
        let page := later.take 8
        let next := if 8 < later.length then (page.getLast?).map (·.1) else none
        (s, doneWith (listFields page (fun e =>
            [accField e.1, u8 e.2.1.thickness, u8 e.2.1.cls.code, u8 e.2.2.val]) ++
          [match next with
            | some acc => accField acc
            | none => outcomeField .fin])))

end Sys2Proof.Machine
end

