-- ==== Sys2Proof/Machine/Aisles.lean ====
section
/-! DEFINITION. The dispatch requests (chapter 4): STOP_AISLE, START_AISLE, CANCEL_JOB, AUDIT_AISLE,
SET_DISPATCH, JOB_INFO, AISLE_INFO. -/

namespace Sys2Proof.Machine

/-- A queue state as its value (R63). -/
def QueueState.code : QueueState → Nat
  | .running => 0 | .stopping => 1 | .stopped => 2

/-- The queue at STOP_AISLE, with the crane holding an order for a job or not (R63). -/
def Queue.stop (q : Queue) (holds : Bool) : Queue :=
  match q.state with
  | .running => { q with state := if holds then .stopping else .stopped, reason := some .host }
  | .stopping => q
  | .stopped => q

/-- STOP_AISLE (R64): the answer reports the state reached and the reason. -/
def execStopAisle (h : Hdr) (aisle : Nat) (s : State) : Out :=
  serve h s (fun s =>
    match aisle? aisle with
    | none => refused s .badArgument
    | some a =>
      let q := (s.queue a).stop (s.crane a).state.holdsOrder
      (s.setQueue a q, doneWith [u8 q.state.code, optField 1 (q.reason.map StopReason.code)]))

/-- The queue of an aisle becomes RUNNING: the bins waiting at its port are tried (R100), and a queue that
was not RUNNING takes a selection (R74), in this order (log 42 DESIGN CHOICE). -/
def State.startQueue (s : State) (a : Aisle) : State :=
  let was := (s.queue a).state
  let s1 := (s.setQueue a { s.queue a with state := .running, reason := none }).retryPort a
  if was = .running then s1 else s1.selectAisle a

/-- START_AISLE (R65). -/
def execStartAisle (h : Hdr) (aisle : Nat) (s : State) : Out :=
  serve h s (fun s =>
    match aisle? aisle with
    | none => refused s .badArgument
    | some a =>
      if s.latched a then refused s .latched
      else if !s.zoneNormal a then refused s .zone
      else (s.startQueue a, refuse .done))

/-- CANCEL_JOB (R66). -/
def execCancelJob (h : Hdr) (job : Nat) (s : State) : Out :=
  serve h s (fun s =>
    if Config.jobs ≤ job then refused s .badArgument
    else
      match s.job job with
      | none => refused s .noJob
      | some r =>
        if r.kind = .putaway ∨ r.kind = .putback then refused s .notCancellable
        else if r.active then refused s .active
        else (((s.begin.cancelJob job r).tellFetchEnd job r .cancelled).settle, refuse .done))

/-- The audit context at its start (R77). -/
def Audit.start (a : Aisle) : Audit :=
  { aisle := a, cursor := 0, pass := 1, created := 0, passed := 0, lastPassed := 0, betweenPasses := false }

/-- AUDIT_AISLE (R77). -/
def execAuditAisle (h : Hdr) (aisle : Nat) (s : State) : Out :=
  serve h s (fun s =>
    match aisle? aisle with
    | none => refused s .badArgument
    | some a =>
      if s.svp.longOp.isSome then refused s .busy
      else if s.authority ≠ .library then refused s .noAuthority
      else ({ s with svp.longOp := some .audit }.auditAdvance (Audit.start a), refuse .started))

/-- A dispatch setting's range, by its number in the order R79 lists them. -/
def dispatchRange : Nat → Option (Nat × Nat)
  | 0 => some (1, 60)
  | 1 => some (0, 15)
  | 2 => some (0, 63)
  | 3 => some (0, 63)
  | 4 => some (0, 15)
  | 5 => some (0, 15)
  | 6 => some (0, 100)
  | 7 => some (0, 255)
  | 8 => some (0, 255)
  | _ => none

/-- Writes a dispatch setting (R79). -/
def DispatchSettings.write (d : DispatchSettings) (setting v : Nat) : DispatchSettings :=
  match setting with
  | 0 => { d with ageStep := v }
  | 1 => { d with wt := v }
  | 2 => { d with ah := v }
  | 3 => { d with av := v }
  | 4 => { d with bh := v }
  | 5 => { d with bv := v }
  | 6 => { d with wake := v }
  | 7 => { d with handling := v }
  | 8 => { d with margin := v }
  | _ => d

/-- SET_DISPATCH (R79). -/
def execSetDispatch (h : Hdr) (setting value : Nat) (s : State) : Out :=
  serve h s (fun s =>
    match dispatchRange setting with
    | none => refused s .badArgument
    | some (lo, hi) =>
      ({ s with rsc.settings.dispatch := s.rsc.settings.dispatch.write setting (clampTo lo hi value) },
        doneClamped (outside lo hi value)))

/-! ### Lookups (R80) -/

/-- A job kind as its value (R56). -/
def JobKind.code : JobKind → Nat
  | .fetch => 0 | .putaway => 1 | .shift => 2 | .verify => 3 | .putback => 4

/-- A job's source (R56); a direct transfer has none of those R56 lists (log 9 DESIGN CHOICE). -/
def JobSource.fields : JobSource → List Field
  | .slot x => [u8 0, slotField x]
  | .port => [u8 1, .absent 4]
  | .forks => [u8 2, .absent 4]
  | .transfer => [.absent 1, .absent 4]

/-- A job's destination: its kind, the station and the slot (R56, log 9 DESIGN CHOICE). -/
def JobDest.fields : JobDest → List Field
  | .station t => [u8 0, u8 t.val, .absent 4]
  | .slot x => [u8 1, .absent 1, slotField x]
  | .undecided => [.absent 1, .absent 1, .absent 4]

/-- A job's origin: its kind, the batch and entry, the hold (R56, log 9 DESIGN CHOICE). -/
def Origin.fields : Origin → List Field
  | .single => [u8 0, .absent 1, .absent 1, .absent 2]
  | .batch b e => [u8 1, u8 b, u8 e, .absent 2]
  | .fill => [u8 2, .absent 1, .absent 1, .absent 2]
  | .page h => [u8 3, .absent 1, .absent 1, u16 h]
  | .audit => [u8 4, .absent 1, .absent 1, .absent 2]
  | .fireRecovery => [u8 5, .absent 1, .absent 1, .absent 2]
  | .return => [u8 6, .absent 1, .absent 1, .absent 2]

/-- A job record (R56). -/
def Job.fields (r : Job) : List Field :=
  [u8 r.kind.code, optField 1 (r.aisle.map Fin.val), u16 r.bin] ++ r.source.fields ++ r.dest.fields ++
    [u8 r.priority, tickField r.enqueued] ++ r.origin.fields ++ [flagField r.active]

/-- JOB_INFO (R80). -/
def execJobInfo (h : Hdr) (job : Nat) (s : State) : Out :=
  serve h s (fun s =>
    if Config.jobs ≤ job then refused s .badArgument
    else
      (s, doneWith ([u8 job] ++
        match s.job job with
        | some r => flagField true :: r.fields
        | none => [flagField false])))

/-- The audit of an aisle, as AISLE_INFO reports it: the slot at the cursor, the pass number and the counts; all
absent when no audit of the aisle runs (R80, log 9 DESIGN CHOICE). -/
def auditFields (a : Aisle) (u : Option Audit) : List Field :=
  match u.filter (·.aisle = a) with
  | some u => [slotField (SlotAddr.ofIndex a u.cursor), u8 u.pass, u16 u.created, u16 u.passed, u16 u.lastPassed]
  | none => [.absent 4, .absent 1, .absent 2, .absent 2, .absent 2]

/-- AISLE_INFO (R80). -/
def execAisleInfo (h : Hdr) (aisle : Nat) (s : State) : Out :=
  serve h s (fun s =>
    match aisle? aisle with
    | none => refused s .badArgument
    | some a =>
      let q := s.queue a
      (s, doneWith ([u8 q.state.code, optField 1 (q.reason.map StopReason.code), u8 q.jobs.length] ++
        q.jobs.flatMap (fun j =>
          match s.job j with
          | some r => [u8 j, u8 r.kind.code, u16 r.bin, flagField r.active, tickField r.enqueued]
          | none => [u8 j]) ++
        [optField 1 q.putback] ++ listFields (s.awaiting a) (fun d => [u16 d.1]) ++
        auditFields a s.dsp.audit)))

end Sys2Proof.Machine
end

