-- ==== Sys2Proof/Machine/Cranes.lean ====
section
/-! DEFINITION. The crane requests (chapter 5): RECOVER_CRANE, PORT_REMOVE, CRANE_INFO, SET_CRANE. -/

namespace Sys2Proof.Machine

/-- The dispositions of RECOVER_CRANE (R94). -/
inductive Disposition where
  | none | continue | storedAt (x : SlotAddr) | lost
deriving DecidableEq, Repr

/-- A disposition by its number in the order R94 gives them; STORED_AT needs a slot in range (R93). A slot address sent
with another disposition is ignored, whatever its value (log 55 DESIGN CHOICE). -/
def disposition? (n : Nat) (raw : Option RawSlot) : Option Disposition :=
  match n with
  | 0 => some .none
  | 1 => some .continue
  | 2 => (raw.bind slot?).map .storedAt
  | 3 => some .lost
  | _ => Option.none

/-- The job that an ACTIVE job's recorded order carries on a crane (R93). -/
def State.heldOrder (s : State) (a : Aisle) : Option (Order × Nat × Job) :=
  (s.crane a).order.bind (fun o => (s.orderJob o).map (fun e => (o, e.1, e.2)))

/-- CLEAR is sent: the recorded order and its tag are removed, the ready timer starts (R93). -/
def State.sendClear (s : State) (a : Aisle) : State :=
  (s.setCrane a { s.crane a with
    order := none
    acceptTimer := none
    readyTimer := some (s.svp.tick.after Config.linkTimer)
    clearSent := true }).send a .clear

/-- The refusals of a disposition (R93, rows 4 to 6, and R94); a resume order alone is no recorded order
(log 21 DEDUCED). -/
def State.recoverRefusal (s : State) (a : Aisle) (d : Disposition) : Option ResultCode :=
  match d, s.heldOrder a with
  | .none, some _ => some .jobActive
  | .none, none => if (s.crane a).resume.isSome then some .jobActive else none
  | _, none => some .noJob
  | .continue, some (o, _, _) => if (s.crane a).load ≠ o.isPicked then some .loadMismatch else none
  | .storedAt x, some (_, j, r) =>
    if x.aisle ≠ a then some .otherAisle
    else if ((s.slot x).state ≠ .free ∧ (s.slot x).state ≠ .occupied r.bin ∧
        (s.slot x).state ≠ .reserved r.bin) ∨ (s.slot x).held.any (· ≠ j) then some .slotNotFree
    else if !fits (s.bin r.bin) (s.slot x) then some .badAttribute
    else none
  | .lost, some _ => none

/-- STORED_AT: the bin is stored where staff found it, and the job ends (R94). -/
def Work.storedAt (w : Work) (x : SlotAddr) (j : Nat) (r : Job) : Work :=
  let b := r.bin
  let w1 := (w.dropPlaces b .unknown).on (fun s => (s.releaseHold j r.dest).storeBin b x)
  (((w1.endJob j r).on (·.setOwner b .none)).tellFetchEnd j r .recovered).storageGrant b

/-- An accepted disposition (R94). -/
def Work.recover (w : Work) (a : Aisle) (d : Disposition) : Work :=
  match d, w.st.heldOrder a with
  | .continue, some (o, j, r) =>
    let w1 := w.on (·.sendClear a)
    if o.isPicked then w1.on (fun s => s.setCrane a { s.crane a with resume := some j })
    else w1.requeue j r
  | .storedAt x, some (_, j, r) => (w.on (·.sendClear a)).storedAt x j r
  | .lost, some (_, _, r) => (w.on (·.sendClear a)).makeUncertain r.bin .unknown .lost
  | _, _ => w.on (·.sendClear a)

/-- RECOVER_CRANE (R93, R94). -/
def execRecoverCrane (h : Hdr) (aisle disposition : Nat) (x : Option RawSlot) (s : State) : Out :=
  serve h s (fun s =>
    match aisle? aisle, disposition? disposition x with
    | some a, some d =>
      if (s.crane a).state ≠ .halted then refused s .notHalted
      else
        match s.recoverRefusal a d with
        | some c => refused s c
        | none => ((s.begin.recover a d).settle, refuse .done)
    | _, _ => refused s .badArgument)

/-- PORT_REMOVE (R102). -/
def execPortRemove (h : Hdr) (aisle bin : Nat) (s : State) : Out :=
  serve h s (fun s =>
    match aisle? aisle with
    | none => refused s .badArgument
    | some a =>
      if !binOk bin then refused s .badArgument
      else if !((s.crane a).buffer.contains bin || (s.crane a).overflow.contains bin) then
        refused s .notAtPort
      else if (s.bin bin).owner ≠ .none then refused s .owned
      else ((s.begin.makeUncertain bin .unknown .uncertain).settle, refuse .done))

/-- SET_CRANE (R96): the request carries the value alone, with no setting field before it (log 14 DESIGN CHOICE). -/
def execSetCrane (h : Hdr) (value : Nat) (s : State) : Out :=
  serve h s (fun s =>
    ({ s with rsc.settings.restIdle := clampTo 0 255 value }, doneClamped (outside 0 255 value)))

/-! ### CRANE_INFO (R103) -/

/-- An order kind as its value, in the order R83 lists the orders. -/
def OrderKind.code : OrderKind → Nat
  | .retrieve => 0 | .store => 1 | .shift => 2 | .verify => 3

/-- An outstanding order (R81, R103); the job is absent when orphaned. -/
def orderFields : Option Order → List Field
  | some o => [u8 o.kind.code, u8 o.tag.toNat, optField 1 o.job, tickField o.deadline, flagField o.loaded]
  | none => [.absent 1, .absent 1, .absent 1, .absent 4, .absent 1]

/-- A crane position or unknown. -/
def positionFields : Option CranePos → List Field
  | some p => [u8 p.level.val, u8 p.column.val]
  | none => [.absent 1, .absent 1]

/-- A bin at a port with its owner and reservation (R103). -/
def State.portBinFields (s : State) (b : Nat) : List Field :=
  [u16 b] ++ (s.bin b).owner.fields ++ [optSlot (s.bin b).state.reserved?]

/-- CRANE_INFO (R103). The drive's fault kind of a fault that is not the drive's is sent as 0, as in a notice, and a
resume order as its job's number alone (log 9 DESIGN CHOICE). -/
def execCraneInfo (h : Hdr) (aisle : Nat) (s : State) : Out :=
  serve h s (fun s =>
    match aisle? aisle with
    | none => refused s .badArgument
    | some a =>
      let c := s.crane a
      (s, doneWith ([u8 c.state.code] ++ positionFields c.position ++ orderFields c.order ++
        [optField 1 c.selected, u8 c.lastTag.toNat, flagField c.load, flagField c.parkedFlag,
         flagField c.restOutstanding, u8 (c.fault.arg / 65536), u8 (c.fault.arg % 65536), optField 1 c.resume] ++
        listFields c.buffer s.portBinFields ++ listFields c.overflow s.portBinFields)))

end Sys2Proof.Machine
end

