-- ==== Sys2Proof/Machine/Drives.lean ====
section
/-! DEFINITION. The drive messages and the crane timers (chapter 5): READY, ACCEPTED, PICKED, DONE, VERIFIED,
ABORTED, FAULT, PARKED, RESTED; the accept, ready, deadline and rest timers. -/

namespace Sys2Proof.Machine

/-- A timer is running and its expiry tick is reached. Its expiry is a command of its own (log 5 DESIGN CHOICE), and
says nothing at any other time (log 6 DEDUCED). -/
def dueAt (t : Option Tick) (now : Tick) : Bool :=
  match t with
  | some d => d.reached now
  | none => false

/-- READY (R85). -/
def execReady (a : Aisle) (s : State) : Out :=
  let c := s.crane a
  match c.state with
  | .down =>
    .next (((s.setCrane a { c with fault := .none, readyTimer := none }).begin).enterIdle a).settle
  | .waking => .next (((s.setCrane a { c with readyTimer := none }).begin).readyWaking a).settle
  | .halted =>
    if c.clearSent then
      .next (((s.setCrane a { c with fault := .none, readyTimer := none, clearSent := false }).begin).enterIdle
        a).settle
    else .next s
  | .busy | .aborting | .parking => .next (s.halt a .driveRestart c.orderTag)
  | .idle | .resting | .parked => .next s

/-- ACCEPTED (R84, R86). -/
def execAccepted (a : Aisle) (tag : Byte) (s : State) : Out :=
  let c := s.crane a
  match c.takes tag with
  | .current o =>
    if o.accepted then .next (s.linkError a .accepted tag)
    else .next (s.setCrane a { c with order := some { o with accepted := true }, acceptTimer := none })
  | .late _ => .next s
  | .discarded => .next s

/-- PICKED (R84, R87, R91, R92). -/
def execPicked (a : Aisle) (tag : Byte) (s : State) : Out :=
  let c := s.crane a
  match c.takes tag with
  | .late _ => .next ((s.setCrane a { c with load := true }).lateDone a tag .picked)
  | .current o =>
    if o.kind = .verify ∨ o.isPicked then .next (s.linkError a .picked tag)
    else
      match s.orderJob o with
      | some (_, r) => .next (((s.begin.pickEffects a r).on (·.markPicked a)).settle)
      | none => .next (s.markPicked a)
  | .discarded => .next s

/-- The end of an order whose job has ended (R92). -/
def Work.orphanEnd (w : Work) (a : Aisle) (tag : Byte) (p : CranePos) : Work :=
  (w.on (fun s => ((s.setDrive a p false).clearOrder a).post .orphanDone a.val tag.toNat (posArg p))).enterIdle
    a

/-- DONE (R84, R88, R91, R92). -/
def execDone (a : Aisle) (tag : Byte) (pos : CranePos) (s : State) : Out :=
  match (s.crane a).takes tag with
  | .late _ => .next ((s.setDrive a pos false).lateDone a tag .done)
  | .current o =>
    if o.kind = .verify then .next (s.linkError a .done tag)
    else
      match s.orderJob o with
      | some (j, r) =>
        let w1 := (s.begin.pickIfNeeded a o r).on (fun s => (s.setDrive a pos false).clearOrder a)
        .next ((w1.complete a j r).enterIdle a).settle
      | none => .next (s.begin.orphanEnd a tag pos).settle
  | .discarded => .next s

/-- The position of the slot that a VERIFY carries (R88). R91 names no slot for a late VERIFIED of another
order: the slot that order carries, else the place the crane is taken to be at (log 43 DESIGN CHOICE). -/
def State.verifyPos (s : State) (a : Aisle) (o : Order) : CranePos :=
  match o.slot with
  | some x => x.pos
  | none => (s.crane a).at

/-- VERIFIED (R84, R88, R91, R92). -/
def execVerified (a : Aisle) (tag : Byte) (read : Option Nat) (s : State) : Out :=
  match (s.crane a).takes tag with
  | .late o =>
    .next ((s.setCrane a { s.crane a with position := some (s.verifyPos a o) }).lateDone a tag .verified)
  | .current o =>
    if o.kind ≠ .verify then .next (s.linkError a .verified tag)
    else
      match s.orderJob o with
      | some (j, r) =>
        let w1 := s.begin.on (fun s => (s.setDrive a (s.verifyPos a o) false).clearOrder a)
        let w2 := (w1.endJob j r).on (·.setOwner r.bin .none)
        let w3 := match r.sourceSlot? with
          | some x => w2.verifyResult x r.bin read
          | none => w2
        .next (w3.enterIdle a).settle
      | none => .next (s.begin.orphanEnd a tag (s.verifyPos a o)).settle
  | .discarded => .next s

/-- What an ABORTED does to the job (R180): a load strands it, unless it is a VERIFY, which is not stranded (R181)
and returns to QUEUED (log 63 DESIGN CHOICE); without a load it returns to QUEUED when not picked, and its bin is
UNCERTAIN when picked. -/
def Work.aborted (w : Work) (a : Aisle) (o : Order) (j : Nat) (r : Job) (load : Bool) : Work :=
  if r.kind = .verify then w.requeue j r
  else if load then (w.pickIfNeeded a o r).strand a j r
  else if o.isPicked then w.makeUncertain r.bin .unknown .uncertain
  else w.requeue j r

/-- ABORTED (R84, R91, R92, R98, R180). -/
def execAborted (a : Aisle) (tag : Byte) (pos : CranePos) (load : Bool) (s : State) : Out :=
  match (s.crane a).takes tag with
  | .late _ => .next ((s.setDrive a pos load).lateDone a tag .aborted)
  | .current o =>
    if (s.crane a).state ≠ .aborting then .next (s.linkError a .aborted tag)
    else
      let w1 := s.begin.on (fun s => (s.setDrive a pos load).clearOrder a)
      let w2 := match s.orderJob o with
        | some (j, r) => w1.aborted a o j r load
        | none => w1
      .next (w2.enterIdle a).settle
  | .discarded => .next s

/-- A FAULT while a job order is outstanding (R89). -/
def Work.faultOrder (w : Work) (a : Aisle) (o : Order) (load : Bool) : Work :=
  let back := o.kind = .verify ∨ (!load ∧ !o.isPicked)
  match w.st.orderJob o with
  | some (j, r) =>
    if back then (w.requeue j r).on (·.clearOrder a)
    else if o.isPicked then w
    else (w.pickEffects a r).on (fun s => s.setCrane a { s.crane a with
      order := (s.crane a).order.map (fun o => { o with picked := true }) })
  | none => if back then w.on (·.clearOrder a) else w

/-- A crane takes a FAULT (R84, R89): any FAULT while it holds no job order; with a job order outstanding or
recorded, one that carries its tag; none while it is DOWN. -/
def Crane.takesFault (c : Crane) (tag : Byte) : Bool :=
  match c.state with
  | .down => false
  | .busy | .aborting | .halted =>
    match c.order with
    | some o => o.tag = tag
    | none => true
  | .idle | .resting | .waking | .parking | .parked => true

/-- FAULT (R84, R89). R81 gives the drive's fault kinds as 1 to 255, and no rule says how a kind of 0 is taken: it is
taken as any other FAULT, and the fault is DRIVE with kind 0 (log 57 DESIGN CHOICE). -/
def execFault (a : Aisle) (tag : Byte) (kind : Byte) (pos : CranePos) (load : Bool) (s : State) : Out :=
  let c := s.crane a
  if !c.takesFault tag then .next s
  else
    let s1 := s.setDrive a pos load
    match c.state with
    | .halted =>
      .next ((s1.setCrane a { s1.crane a with fault := .drive kind }).post .craneFault a.val
        (CraneFault.drive kind).arg c.orderTag.toNat)
    | .busy | .aborting =>
      let w := match c.order with
        | some o => s1.begin.faultOrder a o load
        | none => s1.begin
      .next (w.on (·.halt a (.drive kind) c.orderTag)).settle
    | .waking => .next ((s1.begin.unselect a).on (·.halt a (.drive kind) 0)).settle
    | .down | .idle | .resting | .parking | .parked => .next (s1.halt a (.drive kind) 0)

/-- PARKED (R84, R97, R99). -/
def execParked (a : Aisle) (s : State) : Out :=
  match (s.crane a).state with
  | .parking =>
    let s1 := (s.setCrane a { s.crane a with position := some parkPos }).setCraneState a .parked
    .next ((s1.parkedReport a).wakeParked a)
  | .down => .next s
  | .idle | .busy | .aborting | .parked | .resting | .waking | .halted => .next (s.linkError a .parked 0)

/-- RESTED (R84, R96). -/
def execRested (a : Aisle) (s : State) : Out :=
  let c := s.crane a
  if c.state = .idle ∧ c.restOutstanding then
    .next (((s.setCrane a { c with position := some parkPos, restOutstanding := false }).setCraneState a
      .resting).selectAisle a)
  else .next s

/-- The accept timer expires (R86). -/
def execAcceptTimeout (a : Aisle) (s : State) : Out :=
  let c := s.crane a
  if c.state = .busy ∨ c.state = .aborting then
    if dueAt c.acceptTimer s.svp.tick then .next (s.halt a .noAccept c.orderTag) else .next s
  else .next s

/-- The ready timer expires (R81, R86): a WAKING crane's selected job returns to QUEUED; a CLEAR already
sent stands, so that a later READY is its answer (log 20 DEDUCED). -/
def execReadyTimeout (a : Aisle) (s : State) : Out :=
  let c := s.crane a
  if dueAt c.readyTimer s.svp.tick then
    match c.state with
    | .waking => .next ((s.begin.unselect a).on (·.halt a .noReady 0)).settle
    | .down => .next (s.halt a .noReady 0)
    | .halted =>
      let s1 := s.halt a .noReady c.orderTag
      .next (s1.setCrane a { s1.crane a with clearSent := c.clearSent })
    | .idle | .busy | .aborting | .parking | .parked | .resting => .next s
  else .next s

/-- The deadline of the outstanding order expires (R86). -/
def execDeadlineExpiry (a : Aisle) (s : State) : Out :=
  let c := s.crane a
  if c.state = .busy ∨ c.state = .aborting then
    match c.order with
    | some o => if o.deadline.reached s.svp.tick then .next (s.halt a .timeout o.tag) else .next s
    | none => .next s
  else .next s

/-- The rest timer expires: REST is sent (R96). -/
def execRestTimerExpiry (a : Aisle) (s : State) : Out :=
  let c := s.crane a
  if c.state = .idle ∧ dueAt c.restTimer s.svp.tick then
    .next ((s.setCrane a { c with restOutstanding := true, restTimer := none }).send a .rest)
  else .next s

end Sys2Proof.Machine
end

