-- ==== Sys2Proof/Machine/Stations.lean ====
section
/-! DEFINITION. The station requests and events (chapters 5 and 6): OPEN_STATION, CLOSE_STATION, RELEASE_BIN,
SET_STATION, STATION_INFO; port and station arrivals, the release button, residence expiry, the lamp. -/

namespace Sys2Proof.Machine

/-- A station state as its value (R104). -/
def StationState.code : StationState → Nat
  | .normal .closed => 0 | .normal .opened => 1 | .normal .draining => 2 | .fireHold _ => 3

/-- A prior state as its value (R104). -/
def OpenState.code : OpenState → Nat
  | .closed => 0 | .opened => 1 | .draining => 2

/-- The prior state of a station in FIRE_HOLD (R104). -/
def StationState.prior? : StationState → Option OpenState
  | .fireHold o => some o
  | .normal _ => none

/-! ### OPEN_STATION and CLOSE_STATION (R105) -/

/-- The answer of OPEN_STATION and CLOSE_STATION: the state reached. -/
def stateReached (s : State) (t : StationNo) : State × Reply :=
  (s, doneWith [u8 (s.station t).state.code])

/-- Opens a station (R105). -/
def State.openUp (s : State) (t : StationNo) : State :=
  let r := s.station t
  match r.state with
  | .normal .opened => s
  | .normal _ => ((s.setStation t { r with state := .normal .opened }).begin.turnedOpen t).settle
  | .fireHold _ => s.setStation t { r with state := .fireHold .opened }

/-- OPEN_STATION (R105). -/
def execOpenStation (h : Hdr) (station : Nat) (s : State) : Out :=
  serve h s (fun s =>
    match station? station with
    | none => refused s .badArgument
    | some t => stateReached (s.openUp t) t)

/-- The state a closing station takes: DRAINING, or CLOSED when its lane and positions are empty
(R105). -/
def Station.closing (r : Station) : OpenState := if r.isClear then .closed else .draining

/-- Closes a station (R105); an S4 that leaves OPEN has its fill fetches withdrawn (R170). -/
def State.closeDown (s : State) (t : StationNo) : State :=
  let r := s.station t
  match r.state with
  | .normal .opened =>
    let w := (s.setStation t { r with state := .normal r.closing }).begin
    (if t = fillStation then w.withdrawFills else w).settle
  | .normal _ => s
  | .fireHold _ => s.setStation t { r with state := .fireHold r.closing }

/-- CLOSE_STATION (R105). -/
def execCloseStation (h : Hdr) (station : Nat) (s : State) : Out :=
  serve h s (fun s =>
    match station? station with
    | none => refused s .badArgument
    | some t => stateReached (s.closeDown t) t)

/-! ### Releases (R113) -/

/-- The fields of an accepted release (R113). -/
def Released.fields : Released → List Field
  | .transferred t => [outcomeField .transferred, u8 t.val]
  | .storing x => [outcomeField .storing, slotField x]
  | .noSlot => []

/-- RELEASE_BIN (R113, R114). -/
def execReleaseBin (h : Hdr) (station position : Nat) (s : State) : Out :=
  serve h s (fun s =>
    match station? station, pos? position with
    | some t, some p =>
      match (s.position t p).content with
      | .empty => refused s .noBin
      | .unknown => refused s .unknownBin
      | .bin b =>
        if (s.station t).inHold then refused s .fireHold
        else
          let out := s.begin.release t p b
          match out.2 with
          | .noSlot => (out.1.settle, refuse .noSlot)
          | o => (out.1.settle, doneWith o.fields)
    | _, _ => refused s .badArgument)

/-- The position a press of the release button releases: of those that hold a bin, the one with the
earlier arrival tick, or P0 when both are equal (R113). -/
def State.pressed (s : State) (t : StationNo) : Option (Pos × Nat) :=
  let rank := fun (e : Pos × Nat) =>
    ageRank s.svp.tick (((s.position t e.1).arrival).getD s.svp.tick)
  match s.binAt t 0, s.binAt t 1 with
  | some b, some c => if rank (1, c) < rank (0, b) then some (1, c) else some (0, b)
  | some b, none => some (0, b)
  | none, some c => some (1, c)
  | none, none => none

/-- RELEASE_BUTTON (R104, R113). A press in FIRE_HOLD is discarded whatever the positions hold (log 47 DESIGN
CHOICE). -/
def execReleaseButton (t : StationNo) (s : State) : Out :=
  if s.svp.mountState ≠ .mounted ∨ (s.station t).inHold then .next s
  else
    match s.pressed t with
    | none =>
      if (s.station t).positions.any (·.content = .unknown) then
        .next (s.post .releaseRefused (placeNoPos t) ResultCode.unknownBin.code 0)
      else .next s
    | some (p, b) =>
      let out := s.begin.release t p b
      match out.2 with
      | .noSlot =>
        .next (out.1.on (·.post .releaseRefused (placeArg t p) ResultCode.noSlot.code 0)).settle
      | _ => .next out.1.settle

/-! ### Events at stations and ports -/

/-- STATION_ARRIVAL (R104, R110 to R112). -/
def execStationArrival (t : StationNo) (p : Pos) (bin : Option Nat) (s : State) : Out :=
  if s.svp.mountState = .mounted then .next (s.begin.stationArrival t p bin).settle
  else if s.svp.keptStation.length < Config.kept then
    .next { s with svp.keptStation := s.svp.keptStation ++ [{ station := t, pos := p, bin := bin }] }
  else .next s

/-- PORT_ARRIVAL (R100, R101). -/
def execPortArrival (a : Aisle) (bin : Option Nat) (s : State) : Out :=
  if s.svp.mountState = .mounted then .next (s.begin.portArrival a bin).settle
  else if s.svp.keptPort.length < Config.kept then
    .next { s with svp.keptPort := s.svp.keptPort ++ [{ aisle := a, bin := bin }] }
  else .next s

/-- RESIDENCE_EXPIRY (R115). -/
def execResidenceExpiry (t : StationNo) (p : Pos) (s : State) : Out :=
  if dueAt (s.position t p).deadline s.svp.tick then .next (s.begin.residenceExpire t p).settle
  else .next s

/-- The lamp at the end of its phase (R109, log 30 DEDUCED). -/
def Lamp.advance (l : Lamp) (now : Tick) (on off : Nat) : Lamp :=
  match l with
  | .off => .off
  | .lit t => if t.reached now then .dark (now.after off) else .lit t
  | .dark t => if t.reached now then .lit (now.after on) else .dark t

/-- LAMP_PHASE (R109). -/
def execLampPhase (t : StationNo) (s : State) : Out :=
  let r := s.station t
  .next (s.setStation t { r with
    lamp := r.lamp.advance s.svp.tick s.rsc.settings.station.lampOn s.rsc.settings.station.lampOff })

/-! ### SET_STATION (R116, R125) -/

/-- A running timer of a position takes the deadline of the new limit, and expires at once when that is
reached (R116). -/
def Work.retime (w : Work) (t : StationNo) (p : Pos) : Work :=
  let r := w.st.position t p
  match r.deadline, r.restart.or r.arrival with
  | some _, some base =>
    let d := base.after (w.st.residenceTicks t)
    let w1 := w.on (·.setPosition t p { r with deadline := some d })
    if d.reached w.st.svp.tick then w1.residenceExpire t p else w1
  | _, _ => w

/-- Writes the residence limit of a station and applies it to its running timers, P0 before P1 (R116, R125; log 8 DESIGN
CHOICE). -/
def State.setResidence (s : State) (t : StationNo) (v : Nat) : State :=
  let s1 := { s with rsc.settings.station.residence := s.rsc.settings.station.residence.set t v }
  ((s1.begin.retime t 0).retime t 1).settle

/-- The station of a residence setting: S0 to S3 and S5 (R125). -/
def residenceStation (o : Option Nat) : Option StationNo :=
  match o.bind station? with
  | some t => if t = fillStation then none else some t
  | none => none

/-- A station operand that is not needed is out of range when it is above S5 (R125). -/
def stationAbove (o : Option Nat) : Bool := o.any (5 < ·)

/-- SET_STATION (R125); the settings are numbered in the order R125 lists them. A station in range given with a setting
that needs none is ignored, and a residence limit with no station is BAD_ARGUMENT (log 55 DESIGN CHOICE). -/
def execSetStation (h : Hdr) (setting : Nat) (station : Option Nat) (value : Nat) (s : State) : Out :=
  serve h s (fun s =>
    if stationAbove station then refused s .badArgument
    else
      match setting with
      | 0 =>
        match residenceStation station with
        | some t => (s.setResidence t (clampTo 1 120 value), doneClamped (outside 1 120 value))
        | none => refused s .badArgument
      | 1 => (s.setResidence fillStation (clampTo 1 120 value), doneClamped (outside 1 120 value))
      | 2 =>
        ({ s with rsc.settings.station.fillThreshold := clampTo 0 320 value },
          doneClamped (outside 0 320 value))
      | 3 =>
        ({ s with rsc.settings.station.lampOn := clampTo 1 100 value }, doneClamped (outside 1 100 value))
      | 4 =>
        ({ s with rsc.settings.station.lampOff := clampTo 1 100 value }, doneClamped (outside 1 100 value))
      | _ => refused s .badArgument)

/-! ### STATION_INFO (R126) -/

/-- What stands at a position, numbered in the order of R109 and not of R104: empty 0, a bin 1, UNKNOWN 2 (R191; log 64
DESIGN CHOICE). -/
def Content.fields : Content → List Field
  | .empty => [u8 0, .absent 2]
  | .bin b => [u8 1, u16 b]
  | .unknown => [u8 2, .absent 2]

/-- A position as STATION_INFO reports it (R126). -/
def Position.fields (r : Position) : List Field :=
  r.content.fields ++ [optTick r.arrival, optTick r.deadline, flagField r.attention]

/-- A lamp state as its value (R104). -/
def Lamp.code : Lamp → Nat
  | .off => 0 | .lit _ => 1 | .dark _ => 1

/-- STATION_INFO (R126). -/
def execStationInfo (h : Hdr) (station : Nat) (s : State) : Out :=
  serve h s (fun s =>
    match station? station with
    | none => refused s .badArgument
    | some t =>
      let r := s.station t
      (s, doneWith ([u8 r.state.code, optField 1 (r.state.prior?.map OpenState.code)] ++
        listFields r.lane (fun b => [u16 b, optField 1 (s.jobOf b)]) ++
        r.positions.toList.flatMap Position.fields ++ [u8 r.lamp.code])))

end Sys2Proof.Machine
end

