-- ==== Sys2Proof/Machine/Fetches.lean ====
section
/-! DEFINITION. The fetch requests (chapter 6): FETCH, FETCH_BATCH, CANCEL_BATCH, BATCH_INFO. -/

namespace Sys2Proof.Machine

/-- A target in its range: its accession number or its bin number (R117). -/
inductive Wanted where
  | item (acc : Nat)
  | bin (b : Nat)
deriving DecidableEq, Repr

/-- A target in its range; none for a character that is not a digit or a bin above 16,383. -/
def target? : Target → Option Wanted
  | .accession cs => (accession? cs).map .item
  | .bin b => if binOk b then some (.bin b) else none

/-- A climate-1 bin is not fetched to S0, S1 or S2 (R117). -/
def State.binBarred (s : State) (b : Nat) (t : StationNo) : Bool :=
  (s.bin b).climate = .controlled && pickStation t

/-- The tests of a bin target at a station (R117, rows 8 and 9). -/
def State.binTarget (s : State) (b : Nat) (t : StationNo) : Except ResultCode Nat :=
  if s.noPlace b then .error .binUncertain
  else if s.binBarred b t then .error .notPermitted
  else .ok b

/-- Resolves a target to its bin, with the tests of rows 6 to 9 (R117). -/
def State.resolveTarget (s : State) (g : Wanted) (t : StationNo) : Except ResultCode Nat :=
  match g with
  | .bin b => s.binTarget b t
  | .item acc =>
    match s.item acc with
    | none => .error .unknownItem
    | some it =>
      match it.state.shelvedIn with
      | none => .error .notShelved
      | some (b, _) =>
        if s.noPlace b then .error .binUncertain
        else if s.binBarred b t ∨ (it.cls = .rare ∧ t ≠ 3 ∧ t ≠ 5) then .error .notPermitted
        else .ok b

/-- The tests of a station as the destination of requested fetches (R117 and R119, rows 3 to 5). -/
def State.fetchRefusal (s : State) (t : StationNo) : Option ResultCode :=
  if s.authority ≠ .library then some .noAuthority
  else if !(s.station t).isOpen then some .stationClosed
  else if t = fillStation then some .notPermitted
  else none

/-- A FETCH whose tests have passed: where the bin already stands, and else the CLU's decision (R117). -/
def State.fetchBin (s : State) (b : Nat) (t : StationNo) (prio : Nat) : State × Reply :=
  if (s.presentedAt b t).isSome then (s, doneWith [outcomeField .alreadyThere])
  else
    match s.jobTo b t with
    | some j => (s, doneWith [outcomeField .onItsWay, u8 j])
    | none =>
      match s.placeFetch b .single t (clampPriority prio) with
      | (s', .job j) => (s', doneWith [outcomeField .queued, u8 j])
      | (s', .claim n) => (s', doneWith [outcomeField .claimed, u8 n])
      | (_, .queueFull) => refused s .queueFull
      | (_, .claimsFull) => refused s .claimsFull
      | (_, .unavailable) => refused s .binUncertain

/-- FETCH (R117). -/
def execFetch (h : Hdr) (station priority : Nat) (target : Target) (s : State) : Out :=
  serve h s (fun s =>
    match station? station, target? target with
    | some t, some g =>
      match s.fetchRefusal t with
      | some c => refused s c
      | none =>
        match s.resolveTarget g t with
        | .error c => refused s c
        | .ok b => s.fetchBin b t priority
    | _, _ => refused s .badArgument)

/-! ### FETCH_BATCH (R119) -/

/-- A batch mode by its number in the order R118 lists them. -/
def mode? : Nat → Option BatchMode
  | 0 => some .burst
  | 1 => some .paced
  | _ => none

/-- A DONE batch, or a CANCELLED one with no entry QUEUED, can be taken again (R118). -/
def Batch.readable (r : Batch) : Bool :=
  match r.state with
  | .active => false
  | .done => true
  | .cancelled => !r.entries.any (·.state = .queued)

/-- The record a new batch takes: the lowest free one, or the readable one of lowest creation sequence
(R118). -/
def State.batchRecord (s : State) : Option Nat :=
  match (List.range Config.batches).find? (fun n => (s.batch n).isNone) with
  | some n => some n
  | none => ((sortBy (fun e => e.2.sequence) (s.stu.batches.filter (fun e => e.2.readable))).map Prod.fst).head?

/-- An entry as resolved at creation (R119). -/
def State.resolveEntry (s : State) (t : StationNo) (g : Target) : Entry :=
  match (target? g).map (fun w => s.resolveTarget w t) with
  | some (.ok b) => { target := g, bin := some b, released := false, state := .pending }
  | _ => { target := g, bin := none, released := false, state := .failed }

/-- Creates a batch and releases its entries (R119, R120). -/
def State.createBatch (s : State) (n : Nat) (t : StationNo) (m : BatchMode) (prio : Nat)
    (targets : List Target) : State :=
  let r : Batch :=
    { station := t, mode := m, sequence := s.stu.batchSeq + 1, priority := clampPriority prio,
      entries := targets.map (s.resolveEntry t), state := .active }
  let s1 := { s.setBatch n r with stu.batchSeq := s.stu.batchSeq + 1 }
  let s2 := match m with
    | .burst => s1.each (r.entries.filterMap Entry.bin).eraseDups (fun s b => s.releaseEntry n b)
    | .paced => s1
  s2.settleBatch n

/-- An entry state as its value (R118). -/
def EntryState.code : EntryState → Nat
  | .pending => 0 | .claimed => 1 | .queued => 2 | .delivered => 3 | .failed => 4

/-- FETCH_BATCH (R119). -/
def execFetchBatch (h : Hdr) (station mode priority : Nat) (targets : List Target) (s : State) : Out :=
  serve h s (fun s =>
    match station? station, mode? mode with
    | some t, some m =>
      if targets.isEmpty ∨ 16 < targets.length ∨ targets.any (fun g => (target? g).isNone) then
        refused s .badArgument
      else
        match s.fetchRefusal t with
        | some c => refused s c
        | none =>
          match s.batchRecord with
          | none => refused s .batchFull
          | some n =>
            let s1 := s.createBatch n t m priority targets
            (s1, doneWith (u8 n ::
              listFields (((s1.batch n).map Batch.entries).getD []) (fun e => [u8 e.state.code])))
    | _, _ => refused s .badArgument)

/-! ### CANCEL_BATCH (R124) -/

/-- The jobs whose origin is an entry of a batch, in entry index order. -/
def State.batchJobs (s : State) (n : Nat) : List (Nat × Job) :=
  sortBy (fun e => match e.2.origin with | .batch _ i => i | _ => 0)
    (s.dsp.jobs.filter (fun e => match e.2.origin with | .batch m _ => m = n | _ => false))

/-- The entries after CANCEL_BATCH: all outstanding ones FAILED but those whose own job is ACTIVE
(R124). -/
def cancelEntries (kept : List Nat) (es : List Entry) : List Entry :=
  es.map (fun e =>
    if e.state.outstanding && !(e.bin.any (kept.contains ·)) then { e with state := .failed } else e)

/-- CANCEL_BATCH of an ACTIVE batch, with the counts it answers (R124; the order of its steps is log 48 DESIGN
CHOICE). -/
def State.cancelBatch (s : State) (n : Nat) (r : Batch) : State × Reply :=
  let jobs := s.batchJobs n
  let queued := jobs.filter (fun e => !e.2.active)
  let kept := (jobs.filter (fun e => e.2.active)).map (fun e => e.2.bin)
  let claims := s.clu.claims.filter (fun c => match c.claimant with | .batch m _ => m = n | _ => false)
  let entries := cancelEntries kept r.entries
  let w1 := s.begin.on (·.setBatch n { r with entries := entries, state := .cancelled })
  (((w1.each claims Work.withdrawClaim).withdrawJobs queued).settle,
    doneWith [u8 queued.length, u8 claims.length, u8 (countEntries .queued entries)])

/-- CANCEL_BATCH (R124). -/
def execCancelBatch (h : Hdr) (batch : Nat) (s : State) : Out :=
  serve h s (fun s =>
    if Config.batches ≤ batch then refused s .badArgument
    else
      match s.batch batch with
      | none => refused s .noBatch
      | some r => if r.state ≠ .active then refused s .notActive else s.cancelBatch batch r)

/-! ### BATCH_INFO (R126) -/

/-- A batch state as its value (R118). -/
def BatchState.code : BatchState → Nat
  | .active => 0 | .done => 1 | .cancelled => 2

/-- A batch mode as its value (R118). -/
def BatchMode.code : BatchMode → Nat
  | .burst => 0 | .paced => 1

/-- A target as it was given (R118). -/
def targetFields : Target → List Field
  | .accession cs => [u8 0, .chars cs]
  | .bin b => [u8 1, u16 b]

/-- A batch entry (R118). Its index is its place in the list (log 9 DESIGN CHOICE). -/
def Entry.fields (e : Entry) : List Field :=
  targetFields e.target ++ [optField 2 e.bin, flagField e.released, u8 e.state.code]

/-- BATCH_INFO (R126). The creation sequence, which has no upper limit (R118), takes 4 bytes (log 9 DESIGN CHOICE). -/
def execBatchInfo (h : Hdr) (batch : Nat) (s : State) : Out :=
  serve h s (fun s =>
    if Config.batches ≤ batch then refused s .badArgument
    else
      (s, doneWith ([u8 batch] ++
        match s.batch batch with
        | some r =>
          [flagField true, u8 r.station.val, u8 r.mode.code, u32 r.sequence, u8 r.priority] ++
            listFields r.entries Entry.fields ++ [u8 r.state.code]
        | none => [flagField false])))

end Sys2Proof.Machine
end

