-- ==== Sys2Proof/Machine/Calendar.lean ====
section
/-! DEFINITION. The borrower, policy and calendar requests (chapter 7): REGISTER_BORROWER, SET_BORROWER,
RETIRE_BORROWER, SET_POLICY, SET_CALENDAR, SET_CALENDAR_BASE, SET_DAY, BORROWER_INFO, CALENDAR_INFO; the
examinations of the day turnover. -/

namespace Sys2Proof.Machine

/-! ### Borrowers (R128 to R130) -/

/-- REGISTER_BORROWER (R128). -/
def execRegisterBorrower (h : Hdr) (token cls : Nat) (s : State) : Out :=
  serve h s (fun s =>
    match borrowerClass? cls with
    | none => refused s .badArgument
    | some c =>
      if !tokenOk token then refused s .badArgument
      else if (s.borrower token).isSome then refused s .duplicate
      else if Config.borrowers ≤ s.rsc.borrowers.length then refused s .tableFull
      else (s.setBorrower token { cls := c, blocked := false, loans := 0, holds := 0 }, refuse .done))

/-- SET_BORROWER (R129). The blocked value is given as a flag; a byte that is neither 0 nor 1 has no reading (log 14
DESIGN CHOICE). -/
def execSetBorrower (h : Hdr) (token cls : Nat) (blocked : Bool) (s : State) : Out :=
  serve h s (fun s =>
    match borrowerClass? cls with
    | none => refused s .badArgument
    | some c =>
      if !tokenOk token then refused s .badArgument
      else
        match s.borrower token with
        | none => refused s .unknown
        | some r => (s.setBorrower token { r with cls := c, blocked := blocked }, refuse .done))

/-- Removes a borrower record (R130). -/
def State.delBorrower (s : State) (t : Nat) : State :=
  { s with rsc.borrowers := Tab.del s.rsc.borrowers t }

/-- RETIRE_BORROWER (R130). -/
def execRetireBorrower (h : Hdr) (token : Nat) (s : State) : Out :=
  serve h s (fun s =>
    if !tokenOk token then refused s .badArgument
    else
      match s.borrower token with
      | none => refused s .unknown
      | some r =>
        if 0 < r.loans ∨ 0 < r.holds then refused s .active
        else (s.delBorrower token, refuse .done))

/-! ### The policy table (R131) -/

/-- A policy field's range, by its number in the order R131 lists them. -/
def policyRange : Nat → Option (Nat × Nat)
  | 0 => some (1, 365)
  | 1 => some (1, 14)
  | 2 => some (0, 255)
  | 3 => some (0, 15)
  | 4 => some (0, 8)
  | 5 => some (0, 65535)
  | 6 => some (1, 14)
  | _ => none

/-- Writes a field of a policy row (R131). -/
def PolicyRow.write (r : PolicyRow) (field v : Nat) : PolicyRow :=
  match field with
  | 0 => { r with generalDays := v }
  | 1 => { r with shortDays := v }
  | 2 => { r with maxLoans := v }
  | 3 => { r with maxRenewals := v }
  | 4 => { r with maxHolds := v }
  | 5 => { r with capDay := v }
  | 6 => { r with pickupDays := v }
  | _ => r

/-- SET_POLICY (R131). -/
def execSetPolicy (h : Hdr) (cls field value : Nat) (s : State) : Out :=
  serve h s (fun s =>
    match borrowerClass? cls, policyRange field with
    | some c, some (lo, hi) =>
      ({ s with rsc.policy := s.rsc.policy.set c ((s.policyRow c).write field (clampTo lo hi value)) },
        doneClamped (outside lo hi value))
    | _, _ => refused s .badArgument)

/-! ### The calendar (R133, R134) -/

/-- Closed days that follow one another from a day on, as far as a run of 32 needs (R132, R133). -/
def State.closedAfter (s : State) : Nat → Nat → Nat
  | 0, _ => 0
  | fuel + 1, d => if s.isClosed d then s.closedAfter fuel (d + 1) + 1 else 0

/-- Closed days that follow one another up to the day before a day, as far as a run of 32 needs. -/
def State.closedBefore (s : State) : Nat → Nat → Nat
  | 0, _ => 0
  | _ + 1, 0 => 0
  | fuel + 1, d + 1 => if s.isClosed d then s.closedBefore fuel d + 1 else 0

/-- The length of the closed run that a range marked closed would be part of (R133). -/
def State.runLength (s : State) (first n : Nat) : Nat :=
  s.closedBefore 32 first + n + s.closedAfter 32 (first + n)

/-- The closed days after a range has taken a mark, in rising order (R133). -/
def State.markDays (s : State) (first n : Nat) (closed : Bool) : List Nat :=
  s.rsc.closedDays.filter (· < first) ++ (if closed then List.range' first n else []) ++
    s.rsc.closedDays.filter (first + n ≤ ·)

/-- SET_CALENDAR (R133). Mark 0 is open, mark 1 closed. -/
def execSetCalendar (h : Hdr) (first count mark : Nat) (s : State) : Out :=
  serve h s (fun s =>
    if count < 1 ∨ 64 < count ∨ 65534 < first ∨ 1 < mark then refused s .badArgument
    else if first < s.rsc.calBase ∨ s.rsc.calBase + 511 < first + count - 1 then refused s .outOfWindow
    else if mark = 1 ∧ 32 ≤ s.runLength first count then refused s .closedRun
    else ({ s with rsc.closedDays := s.markDays first count (mark = 1) }, refuse .done))

/-- SET_CALENDAR_BASE (R134). -/
def execSetCalendarBase (h : Hdr) (base : Nat) (s : State) : Out :=
  serve h s (fun s =>
    if 65023 < base then refused s .badArgument
    else if base < s.rsc.calBase then refused s .backward
    else if base = s.rsc.calBase then (s, refuse .done)
    else
      ({ s with
          rsc.closedDays := s.rsc.closedDays.filter (fun d => base ≤ d && s.isClosed d)
          rsc.calBase := base }, refuse .done))

/-! ### Today and the day turnover (R135, R136) -/

/-- SET_DAY (R135). -/
def execSetDay (h : Hdr) (day : Nat) (s : State) : Out :=
  serve h s (fun s =>
    if 65534 < day then refused s .badArgument
    else if day ≤ s.rsc.today then refused s .backward
    else if s.svp.longOp.isSome then refused s .busy
    else
      ({ s with
          svp.longOp := some .turnover
          rsc.today := day
          circ.turnover := some { day := day, cursor := 0, expired := 0 } }, refuse .started))

/-- A READY hold whose expiry day is earlier than the turnover's day (R160); its expiry day. -/
def Hold.expires (r : Hold) (day : Nat) : Option Nat :=
  match r.state with
  | .ready e => if e < day then some e else none
  | .waiting => none

/-- A hold expires (R160). -/
def State.expireHold (s : State) (h : Nat) (r : Hold) (e : Nat) : State :=
  let s1 := (s.removeHold h r).post .holdExpired r.item r.borrower e
  (((s1.begin.withdrawPage h).on (·.passOn r.item)).settle)

/-- The overdue loans at the completion of a turnover (R136). -/
def State.overdueLoans (s : State) (day : Nat) : Nat :=
  (s.rsc.loans.filter (fun e => e.2.due < day)).length

/-- The cursor moves to the next record, and completes the turnover when it passes the last (R136). -/
def State.turnoverNext (s : State) (u : Turnover) : State :=
  if u.cursor + 1 < Config.holds then
    { s with circ.turnover := some { u with cursor := u.cursor + 1 } }
  else
    { s with
      circ.turnover := none
      svp.longOp := none }.post .turnoverDone u.day (s.overdueLoans u.day) u.expired

/-- TURNOVER_EXAMINATION: the record at the cursor is examined; without a running turnover there is
nothing to examine (R136, R160, log 33 DESIGN CHOICE). -/
def execTurnoverExamination (s : State) : Out :=
  match s.circ.turnover with
  | none => .next s
  | some u =>
    match s.hold u.cursor with
    | some r =>
      match r.expires u.day with
      | some e => .next ((s.expireHold u.cursor r e).turnoverNext { u with expired := u.expired + 1 })
      | none => .next (s.turnoverNext u)
    | none => .next (s.turnoverNext u)

/-! ### Lookups (R146) -/

/-- A policy row (R131). -/
def PolicyRow.fields (r : PolicyRow) : List Field :=
  [u16 r.generalDays, u8 r.shortDays, u8 r.maxLoans, u8 r.maxRenewals, u8 r.maxHolds, u16 r.capDay,
   u8 r.pickupDays]

/-- BORROWER_INFO (R146). -/
def execBorrowerInfo (h : Hdr) (token : Nat) (s : State) : Out :=
  serve h s (fun s =>
    if !tokenOk token then refused s .badArgument
    else
      match s.borrower token with
      | none => refused s .unknown
      | some r =>
        (s, doneWith ([u24 token, u8 r.cls.val, flagField r.blocked, u8 r.loans, u8 r.holds] ++
          (s.policyRow r.cls).fields)))

/-- CALENDAR_INFO (R146); an open day is 0, a closed day 1. -/
def execCalendarInfo (h : Hdr) (first count : Nat) (s : State) : Out :=
  serve h s (fun s =>
    if count < 1 ∨ 64 < count ∨ 65535 < first + count - 1 then refused s .badArgument
    else
      (s, doneWith ([u16 s.rsc.calBase, u16 s.rsc.today] ++
        (List.range' first count).map (fun d => flagField (s.isClosed d)))))

end Sys2Proof.Machine
end

