-- ==== Sys2Proof/Machine/Loans.lean ====
section
/-! DEFINITION. The loan requests (chapter 7): CHECKOUT, RENEW, RETURN_AT_DESK, EARLIEST_DUE, LIST_LOANS,
LOAN_INFO. -/

namespace Sys2Proof.Machine

/-- Looks up an item and a borrower's token, each in its format (R139, R151, R159). -/
def State.withItemToken (s : State) (chars : List Byte) (token : Nat)
    (f : Nat → Item → State × Reply) : State × Reply :=
  if !tokenOk token then refused s .badArgument else s.withItem chars f

/-! ### CHECKOUT (R139, R140) -/

/-- The first hold of an item names another borrower (R139). -/
def State.heldForOther (s : State) (it : Item) (token : Nat) : Bool :=
  match s.firstHold it with
  | some (_, r) => r.borrower ≠ token
  | none => false

/-- Step 1 of a checkout: the borrower's first hold is consumed, and its page withdrawn (R140). -/
def State.consumeHold (s : State) (it : Item) (token : Nat) : State :=
  match s.firstHold it with
  | some (n, r) =>
    if r.borrower = token then (((s.removeHold n r).begin).withdrawPage n).settle else s
  | none => s

/-- Steps 2 to 4 of a checkout: the loan record, the item's state, the loan count (R140). -/
def State.lend (s : State) (acc n token : Nat) (due : Nat) : State :=
  let r : Loan :=
    { item := acc, borrower := token, checkout := s.rsc.today, due := due, renewals := 0,
      recalled := false }
  ((s.setLoan n r).setItemState acc (.onLoan n)).modBorrower token (fun b => { b with loans := b.loans + 1 })

/-- Step 5 of a checkout: a WAITING hold that remains recalls the new loan (R140, R156). -/
def State.recallIfWanted (s : State) (acc n : Nat) : State :=
  match s.item acc with
  | some it => if s.hasWaiting it then s.recallLoan s.rsc.today n else s
  | none => s

/-- An accepted CHECKOUT (R140). -/
def State.checkout (s : State) (acc : Nat) (it : Item) (token : Nat) (c : Fin 4) : State × Reply :=
  let n := Tab.lowestFree s.rsc.loans 0
  let s1 := s.consumeHold it token
  let s2 := (s1.lend acc n token (s1.dueDay s1.rsc.today c it.cls)).recallIfWanted acc n
  (s2, doneWith (u16 n ::
    match s2.loan n with
    | some r => [u16 r.due, flagField r.recalled]
    | none => [.absent 2, .absent 1]))

/-- CHECKOUT (R139). -/
def execCheckout (h : Hdr) (chars : List Byte) (token : Nat) (s : State) : Out :=
  serve h s (fun s => s.withItemToken chars token (fun acc it =>
    match s.borrower token with
    | none => refused s .unknown
    | some b =>
      if b.blocked then refused s .blocked
      else if !it.cls.lendable then refused s .notLoanable
      else if (s.policyRow b.cls).maxLoans ≤ b.loans then refused s .limit
      else if Config.loans ≤ s.rsc.loans.length then refused s .tableFull
      else if it.state.desk?.isNone then refused s .notAtDesk
      else if s.heldForOther it token then refused s .heldForOther
      else s.checkout acc it token b.cls))

/-! ### RENEW (R141) -/

/-- The loan of an ON_LOAN item: its number and record. -/
def State.loanOf (s : State) (it : Item) : Option (Nat × Loan) :=
  it.state.loan?.bind (fun n => (s.loan n).map (fun r => (n, r)))

/-- RENEW (R141). -/
def execRenew (h : Hdr) (chars : List Byte) (s : State) : Out :=
  serve h s (fun s => s.withItem chars (fun _ it =>
    match s.loanOf it with
    | none => refused s .notOnLoan
    | some (n, r) =>
      match s.borrower r.borrower with
      | none => refused s .notOnLoan
      | some b =>
        let due := s.dueDay s.rsc.today b.cls it.cls
        if s.hasWaiting it then refused s .holds
        else if r.recalled then refused s .recalled
        else if (s.policyRow b.cls).maxRenewals ≤ r.renewals then refused s .limit
        else if b.blocked then refused s .blocked
        else if due ≤ r.due then refused s .noExtension
        else
          (s.setLoan n { r with due := due, renewals := r.renewals + 1 },
            doneWith [u16 due, u8 (r.renewals + 1)])))

/-! ### RETURN_AT_DESK (R143) -/

/-- The item's next state after its return at the desk: the hold shelf at S5 for a WAITING first hold,
otherwise AT_DESK at S5 (R143). -/
def State.returnedAt (s : State) (acc : Nat) (it : Item) : State :=
  match s.firstWaiting it with
  | some (n, r) => s.makeReady acc n r serviceStation
  | none => s.setItemState acc (.atDesk serviceStation)

/-- RETURN_AT_DESK (R143). -/
def execReturnAtDesk (h : Hdr) (chars : List Byte) (s : State) : Out :=
  serve h s (fun s => s.withItem chars (fun acc it =>
    match s.loanOf it with
    | none => refused s .notOnLoan
    | some (n, r) =>
      let s1 := (s.closeLoan acc n r).returnedAt acc it
      (s1, doneWith [u16 (s.overdue r), u8 (((s1.item acc).map (·.state.code)).getD 0)])))

/-! ### Loan queries (R144 to R146) -/

/-- The loan that falls due first among those that meet a condition; of equals the lower number (R144). -/
def State.earliest (s : State) (f : Loan → Bool) : Option (Nat × Loan) :=
  s.rsc.loans.foldl (fun (best : Option (Nat × Loan)) e =>
    if f e.2 then
      match best with
      | none => some e
      | some b => if e.2.due < b.2.due then some e else some b
    else best) none

/-- The answer of EARLIEST_DUE: the loan, or NONE (R144). -/
def earliestReply : Option (Nat × Loan) → Reply
  | some (n, r) => doneWith [u16 n, accField r.item, u24 r.borrower, u16 r.due]
  | none => doneWith [outcomeField .none]

/-- The class of a loan's borrower is a class (R144). -/
def State.loanInClass (s : State) (c : Fin 4) (r : Loan) : Bool :=
  (s.borrower r.borrower).any (·.cls = c)

/-- EARLIEST_DUE (R144): selector 0 is WING, 1 BORROWER, 2 CLASS. An argument given with WING is ignored, and none
given with BORROWER or CLASS is BAD_ARGUMENT (log 55 DESIGN CHOICE). -/
def execEarliestDue (h : Hdr) (selector : Nat) (arg : Option Nat) (s : State) : Out :=
  serve h s (fun s =>
    match selector, arg with
    | 0, _ => (s, earliestReply (s.earliest (fun _ => true)))
    | 1, some t =>
      if !tokenOk t then refused s .badArgument
      else if (s.borrower t).isNone then refused s .unknown
      else (s, earliestReply (s.earliest (·.borrower = t)))
    | 2, some k =>
      match borrowerClass? k with
      | some c => (s, earliestReply (s.earliest (s.loanInClass c)))
      | none => refused s .badArgument
    | _, _ => refused s .badArgument)

/-- A loan meets a listing's selector at this moment (R145). -/
def State.listed (s : State) (sel : LoanSelector) (r : Loan) : Bool :=
  match sel with
  | .borrower t => r.borrower = t
  | .overdue => r.due < s.rsc.today

/-- A loan as LIST_LOANS gives it (R145). -/
def Loan.listFields (n : Nat) (r : Loan) : List Field :=
  [u16 n, accField r.item, u24 r.borrower, u16 r.checkout, u16 r.due, u8 r.renewals, flagField r.recalled]

/-- A page of a loan listing: up to 8 loans above the last number returned; the cursor moves on, or is
removed at END (R145). -/
def State.loanPage (s : State) (sel : LoanSelector) (last : Option Nat) : State × Reply :=
  let later := s.rsc.loans.filter (fun e => s.listed sel e.2 && last.all (· < e.1))
  let page := later.take 8
  let more := 8 < later.length
  let next : Option Listing :=
    if more then (page.getLast?).map (fun e => { selector := sel, last := e.1 }) else none
  ({ s with circ.listing := next },
    doneWith (listFields page (fun e => e.2.listFields e.1) ++
      [outcomeField (if more then .more else .fin)]))

/-- LIST_LOANS (R145): selector 0 is BORROWER, 1 OVERDUE. A token given with OVERDUE is ignored, and none given with
BORROWER is BAD_ARGUMENT (log 55 DESIGN CHOICE). -/
def execListLoans (h : Hdr) (page : LoanPage) (s : State) : Out :=
  serve h s (fun s =>
    match page with
    | .start 0 (some t) =>
      if !tokenOk t then refused s .badArgument
      else if (s.borrower t).isNone then refused s .unknown
      else s.loanPage (.borrower t) none
    | .start 1 _ => s.loanPage .overdue none
    | .start _ _ => refused s .badArgument
    | .next =>
      match s.circ.listing with
      | some c => s.loanPage c.selector (some c.last)
      | none => refused s .noListing)

/-- LOAN_INFO (R146). A byte behind the number says whether the record is in use, and the answer of a free number
ends there (log 9 DESIGN CHOICE). -/
def execLoanInfo (h : Hdr) (loan : Nat) (s : State) : Out :=
  serve h s (fun s =>
    if Config.loans ≤ loan then refused s .badArgument
    else
      (s, doneWith ([u16 loan] ++
        match s.loan loan with
        | some r =>
          [flagField true, accField r.item, u24 r.borrower, u16 r.checkout, u16 r.due, u8 r.renewals,
           flagField r.recalled]
        | none => [flagField false])))

end Sys2Proof.Machine
end

