-- ==== Sys2Proof/Machine/Holds.lean ====
section
/-! DEFINITION. The hold requests (chapter 8): PLACE_HOLD, CANCEL_HOLD, SET_RECALL, HOLD_INFO. -/

namespace Sys2Proof.Machine

/-! ### PLACE_HOLD (R151, R152) -/

/-- Creates a WAITING hold at the tail of an item's queue; the borrower's hold count rises by 1 (R151). -/
def State.joinLine (s : State) (acc : Nat) (it : Item) (token n : Nat) : State :=
  let r : Hold := { item := acc, borrower := token, placed := s.rsc.today, state := .waiting }
  ((s.setHold n r).setItem acc { it with queue := it.queue ++ [n] }).modBorrower token
    (fun b => { b with holds := b.holds + 1 })

/-- The number of WAITING holds in an item's queue (R152). -/
def State.waitingCount (s : State) (it : Item) : Nat :=
  (it.queue.filter (fun h => (s.hold h).any (·.state = .waiting))).length

/-- A page state as its value, in the order R153 lists them. -/
def PageState.code : PageState → Nat
  | .unplaced => 0 | .onJob _ => 1 | .onClaim => 1 | .shared _ => 1 | .held _ => 2

/-- The page of an item's first hold, behind which another has now joined, was delivered and its bin is still at S5:
R154 makes no page again (log 53 DESIGN CHOICE). -/
def State.pageServed (s : State) (it : Item) (b : Nat) : Bool :=
  match it.queue with
  | h :: _ :: _ => s.circ.delivered.contains (h, b) && (s.presentedAt b serviceStation).isSome
  | _ => false

/-- The effect of a placed hold on an item, by the item's state (R152), and what the answer says of it; a
page delivered at once leaves no page state to report (log 25 DEDUCED), and one delivered before is not created
again while its bin stays at S5 (R154, log 53 DESIGN CHOICE). -/
def State.holdPlaced (s : State) (acc : Nat) (it : Item) : State × List Field :=
  match it.state with
  | .onLoan n =>
    if s.waitingCount it = 1 then
      let s1 := s.recallLoan s.rsc.today n
      (s1, [outcomeField .recalled, optField 2 ((s1.loan n).map (·.due))])
    else (s, [outcomeField .queued])
  | .shelved b _ =>
    if s.circ.pages.any (·.item = acc) || s.pageServed it b then (s, [outcomeField .queued])
    else
      let s1 := s.createPage acc
      (s1, [outcomeField .paged,
        optField 1 ((s1.circ.pages.find? (·.item = acc)).map (·.state.code))])
  | .inTray =>
    match s.firstWaiting it with
    | some (n, r) =>
      let s1 := (s.trayTake acc).makeReady acc n r fillStation
      (s1, [outcomeField .ready,
        optField 2 ((s1.hold n).bind (fun q => match q.state with | .ready d => some d | .waiting => none))])
    | none => (s, [outcomeField .queued])
  | .atDesk _ | .holdShelf _ | .missing => (s, [outcomeField .queued])

/-- An accepted PLACE_HOLD (R151, R152): the answer ends with the hold number and its place. -/
def State.placeHold (s : State) (acc : Nat) (it : Item) (token : Nat) : State × Reply :=
  let n := Tab.lowestFree s.rsc.holds 0
  let out := (s.joinLine acc it token n).holdPlaced acc { it with queue := it.queue ++ [n] }
  (out.1, doneWith (out.2 ++ [u16 n, u8 (it.queue.length + 1)]))

/-- The item is ON_LOAN to a borrower (R151). -/
def State.lentTo (s : State) (it : Item) (token : Nat) : Bool :=
  (it.state.loan?.bind s.loan).any (·.borrower = token)

/-- PLACE_HOLD (R151). -/
def execPlaceHold (h : Hdr) (chars : List Byte) (token : Nat) (s : State) : Out :=
  serve h s (fun s => s.withItemToken chars token (fun acc it =>
    if !it.cls.lendable then refused s .notHoldable
    else
      match s.borrower token with
      | none => refused s .unknown
      | some b =>
        if b.blocked then refused s .blocked
        else if (s.policyRow b.cls).maxHolds ≤ b.holds then refused s .limit
        else if Config.itemHolds ≤ it.queue.length then refused s .queueFull
        else if (s.holdOf it token).isSome then refused s .duplicate
        else if s.lentTo it token then refused s .ownLoan
        else if Config.holds ≤ s.rsc.holds.length then refused s .poolFull
        else s.placeHold acc it token))

/-! ### CANCEL_HOLD (R155, R159) -/

/-- An accepted CANCEL_HOLD: the hold leaves; its page is withdrawn, and then a new one created for the hold
now first; a READY hold passes the line on (R155, R159). A hold that has no page, one behind the first or one
whose page was delivered, makes none. -/
def State.cancelHold (s : State) (acc n : Nat) (r : Hold) : State :=
  let s1 := (((s.removeHold n r).begin).withdrawPage n).settle
  let s2 := if (s.pageOf n).isSome then s1.createPage acc else s1
  if r.isReady then s2.passOn acc else s2

/-- A hold's state as its value (R149). -/
def HoldState.code : HoldState → Nat
  | .waiting => 0 | .ready _ => 1

/-- CANCEL_HOLD (R159). -/
def execCancelHold (h : Hdr) (chars : List Byte) (token : Nat) (s : State) : Out :=
  serve h s (fun s => s.withItemToken chars token (fun acc it =>
    match s.holdOf it token with
    | none => refused s .noHold
    | some (n, r) => (s.cancelHold acc n r, doneWith [u8 r.state.code])))

/-! ### SET_RECALL (R157) -/

/-- SET_RECALL (R157): setting 0 is the recall grace, 1 the recall minimum loan. -/
def execSetRecall (h : Hdr) (setting value : Nat) (s : State) : Out :=
  serve h s (fun s =>
    match setting with
    | 0 => ({ s with rsc.settings.recalls.grace := clampTo 1 14 value }, doneClamped (outside 1 14 value))
    | 1 => ({ s with rsc.settings.recalls.minLoan := clampTo 1 28 value }, doneClamped (outside 1 28 value))
    | _ => refused s .badArgument)

/-! ### HOLD_INFO (R161) -/

/-- What carries a page: its state, then job (0) or claim (1) with the job's number, then the zone it is
held for (R153, R161, log 9 DESIGN CHOICE). -/
def pageFields : Option Page → List Field
  | some g => u8 g.state.code ::
    match g.state with
    | .onJob j => [u8 0, u8 j, .absent 1]
    | .shared j => [u8 0, u8 j, .absent 1]
    | .onClaim => [u8 1, .absent 1, .absent 1]
    | .held z => [.absent 1, .absent 1, u8 z.val]
    | .unplaced => [.absent 1, .absent 1, .absent 1]
  | none => [.absent 1, .absent 1, .absent 1, .absent 1]

/-- HOLD_INFO (R161). -/
def execHoldInfo (h : Hdr) (chars : List Byte) (token : Nat) (s : State) : Out :=
  serve h s (fun s => s.withItemToken chars token (fun acc it =>
    match s.holdOf it token with
    | none => refused s .noHold
    | some (n, r) =>
      (s, doneWith ([u16 n, accField acc, u24 r.borrower, u16 r.placed] ++ r.state.fields ++
        [u8 (it.queue.findIdx (· = n) + 1)] ++ pageFields (s.pageOf n)))))

end Sys2Proof.Machine
end

