-- ==== Sys2Proof/Machine/Returns.lean ====
section
/-! DEFINITION. Returns induction (chapter 9): the scan decision (R163 to R166), TRAY_REMOVE and
TRAY_INFO. -/

namespace Sys2Proof.Machine

/-! ### The scan (R164 to R166) -/

/-- The reasons of RETURN_EXCEPTION that are no result codes (section 11.8). -/
def stoppedReason : Nat := 255
/-- NOT_RETURNABLE (section 11.8). -/
def notReturnableReason : Nat := 254
/-- TRAY_FULL (section 11.8). -/
def trayFullReason : Nat := 253

/-- A scan diverted to the staff bench with its notice (R164, R166). -/
def State.scanException (s : State) (reason : Nat) (acc : Option Nat) : State :=
  (s.sendDivert .exception).post .returnException reason (binArg acc) 0

/-- The receiving end is shut to scans: S4 not OPEN, Z4 not NORMAL, or no completed mount (R164, R200). -/
def State.scanStopped (s : State) : Bool :=
  !(s.station fillStation).isOpen || !s.frontNormal || s.svp.mountState ≠ .mounted

/-- The position of S4 at which a bin is presented as a fill bin (R169). -/
def State.fillBinAt (s : State) (b : Nat) : Option Pos :=
  match s.fillOf b with
  | some e =>
    match e.state with
    | .presented p => some p
    | _ => none
  | none => none

/-- The fill bins presented at S4, P0 first (R166). -/
def State.fillBins (s : State) : List (Pos × Nat) :=
  (([0, 1] : List Pos).filterMap (fun p => (s.presentedBin fillStation p).map (fun b => (p, b)))).filter
    (fun e => s.fillAt e.2 e.1)

/-- The place that step 6 finds for a thickness: position, bin and compartment (R28, R166). -/
def State.fillPlace (s : State) (t : Nat) : Option (Pos × Nat × Fin 8) :=
  s.fillBins.findSome? (fun e => ((s.bin e.2).autoPlace t).map (fun k => (e.1, e.2, k)))

/-- Steps 5 and 6 of a scan: the item is routed by its holds and the room at S4 (R166). -/
def Work.scanRoute (w : Work) (acc : Nat) (it : Item) : Work :=
  match w.st.firstWaiting it with
  | some (n, r) => w.on (fun s => (s.sendDivert .holds).makeReady acc n r fillStation)
  | none =>
    match w.st.fillPlace it.thickness with
    | some (p, b, k) => (w.on (fun s => (s.sendDivert (.fill p k)).shelve acc it b k)).fillTestDue p
    | none =>
      if w.st.rsc.tray.length < Config.trayPlaces then
        w.on (fun s => ((s.sendDivert .tray).trayAdd acc).setItemState acc .inTray)
      else
        w.on (fun s => (s.setItemState acc (.atDesk serviceStation)).scanException trayFullReason (some acc))

/-- Step 4 of a scan for an item in a bin: a repeated read when the bin is a fill bin presented at S4;
otherwise the item is found elsewhere and routed (R165). -/
def Work.scanShelved (w : Work) (acc : Nat) (it : Item) (b : Nat) (k : Fin 8) : Work :=
  match w.st.fillBinAt b with
  | some p => w.on (·.sendDivert (.fill p k))
  | none =>
    ((w.on (fun s => (s.unshelve acc it .missing).post .foundElsewhere acc (pairArg b k.val) 0)).withdrawItemPage
      acc).scanRoute acc it

/-- Step 4 of a scan (R165). -/
def Work.scanItem (w : Work) (acc : Nat) (it : Item) : Work :=
  match it.state with
  | .inTray => w.on (·.sendDivert .tray)
  | .holdShelf _ => w.on (·.sendDivert .holds)
  | .shelved b k => w.scanShelved acc it b k
  | .onLoan n =>
    (w.on (fun s =>
      match s.loan n with
      | some r => s.closeLoan acc n r
      | none => s)).scanRoute acc it
  | .atDesk _ => w.scanRoute acc it
  | .missing => (w.on (·.post .itemFound acc 0 0)).scanRoute acc it

/-- SCAN (R163, R164): the whole decision in the one action that takes it (log 29 DEDUCED). -/
def execScan (label : Option (List Byte × BitVec 16)) (s : State) : Out :=
  let read := label.bind (fun l => label? l.1 l.2)
  if s.scanStopped then .next (s.scanException stoppedReason read)
  else
    match read with
    | none => .next (s.scanException ResultCode.badLabel.code none)
    | some acc =>
      match s.item acc with
      | none => .next (s.scanException ResultCode.unknownItem.code (some acc))
      | some it =>
        if it.cls.lendable then .next (s.begin.scanItem acc it).settle
        else .next (s.scanException notReturnableReason (some acc))

/-! ### The tray (R168) -/

/-- TRAY_REMOVE (R168). -/
def execTrayRemove (h : Hdr) (chars : List Byte) (station : Nat) (s : State) : Out :=
  serve h s (fun s =>
    match station? station with
    | none => refused s .badArgument
    | some t => s.withItem chars (fun acc it =>
      match it.state with
      | .inTray => ((s.trayTake acc).setItem acc { it with state := .atDesk t }, refuse .done)
      | _ => refused s .notInTray))

/-- TRAY_INFO (R168). -/
def execTrayInfo (h : Hdr) (s : State) : Out :=
  serve h s (fun s =>
    (s, doneWith (listFields s.rsc.tray (fun acc =>
      accField acc ::
        match s.item acc with
        | some it => [u8 it.thickness, u8 it.queue.length]
        | none => [.absent 1, .absent 1]))))

end Sys2Proof.Machine
end

