-- ==== Sys2Proof/Machine/Zones.lean ====
section
/-! DEFINITION. The requests and events of the fire interlock (chapter 10): REOPEN_ZONE, CLAIM_WING, YIELD_WING,
SUPERVISE, SET_INTERLOCK, ZONE_INFO, WING_INFO; line changes and the changes taken, the park, shutter and
supervision timers, the shutter confirmations. -/

namespace Sys2Proof.Machine

/-! ### REOPEN_ZONE (R183, R185) -/

/-- An aisle zone begins to reopen: the command OPEN, the flag cleared, the shutter timer (R183). -/
def State.startReopen (s : State) (z : ZoneNo) : State :=
  s.setZone z { s.zone z with
    shutterCmd := .open
    confirmed := false
    reopenPending := true
    shutterTimer := some (s.svp.tick.after (seconds s.rsc.settings.interlock.shutter)) }

/-- REOPEN_ZONE (R183, R185). -/
def execReopenZone (h : Hdr) (zone : Nat) (s : State) : Out :=
  serve h s (fun s =>
    match zone? zone with
    | none => refused s .badArgument
    | some z =>
      let r := s.zone z
      if s.authority ≠ .library then refused s .noAuthority
      else if r.state = .normal then refused s .notStandby
      else if r.latch then refused s .latched
      else if r.state ≠ .standby then refused s .notStandby
      else if z = frontEnd then ((s.begin.reopenFront).settle, refuse .done)
      else if r.parkTimer.isSome ∨ r.shutterTimer.isSome ∨ r.reopenPending then refused s .inProgress
      else (s.startReopen z, refuse .started))

/-! ### The claims (R186, R187) -/

/-- An accepted CLAIM_WING: the claim, epoch 0, no lapse, the timer; a lapse that it ends without a change
of the authority state is ended as SUPERVISE ends one (R186). -/
def State.claimWing (s : State) : State :=
  let s1 := s.withClaims (fun f =>
    { f with
      libraryClaim := true
      epoch := 0
      lapsed := false
      supTimer := s.supervisionStart })
  if s.fiu.lapsed ∧ s1.authority = s.authority then s1.lapseEnded else s1

/-- CLAIM_WING (R186). -/
def execClaimWing (h : Hdr) (s : State) : Out :=
  serve h s (fun s =>
    if s.fiu.buildingClaim then refused s .buildingHolds
    else (s.claimWing, doneWith [u8 0]))

/-- YIELD_WING (R186). -/
def execYieldWing (h : Hdr) (s : State) : Out :=
  serve h s (fun s =>
    if s.fiu.libraryClaim then
      (s.withClaims (fun f => { f with libraryClaim := false, lapsed := false, supTimer := none }),
        refuse .done)
    else (s, refuse .done))

/-- SUPERVISE with the current epoch: the timer restarts and a lapse ends (R187). -/
def State.superviseCurrent (s : State) : State :=
  let s1 := { s with fiu.supTimer := s.supervisionStart, fiu.lapsed := false }
  if s.fiu.lapsed then s1.lapseEnded else s1

/-- The answer of a SUPERVISE with another epoch: EPOCH with the epoch after the expiry (R187). -/
def epochReply (s : State) : Reply :=
  { code := .epoch, clamped := false, fields := [u8 s.fiu.epoch.toNat] }

/-- SUPERVISE (R187). -/
def execSupervise (h : Hdr) (epoch : Nat) (s : State) : Out :=
  serve h s (fun s =>
    if !s.supervised then refused s .notSupervised
    else if epoch = s.fiu.epoch.toNat then (s.superviseCurrent, doneWith [u8 epoch])
    else (s.superviseExpire, epochReply s.superviseExpire))

/-! ### SET_INTERLOCK (R188) -/

/-- An interlock setting's range, by its number in the order R188 lists them. -/
def interlockRange : Nat → Option (Nat × Nat)
  | 0 => some (0, 15)
  | 1 => some (1, 60)
  | 2 => some (1, 30)
  | 3 => some (0, 60)
  | _ => none

/-- Writes an interlock setting (R188). -/
def InterlockSettings.write (r : InterlockSettings) (setting v : Nat) : InterlockSettings :=
  match setting with
  | 0 => { r with filter := v }
  | 1 => { r with park := v }
  | 2 => { r with shutter := v }
  | 3 => { r with supervision := v }
  | _ => r

/-- What a supervision period does to running supervision: 0 stops it and ends a lapse; another, after 0,
starts it while the claim is set (R188). `old` is the period before. -/
def State.periodWritten (s : State) (old : Nat) : State :=
  if s.rsc.settings.interlock.supervision = 0 then
    let s1 := { s with fiu.supTimer := none, fiu.lapsed := false }
    if s.fiu.lapsed then s1.lapseEnded else s1
  else if old = 0 ∧ s.fiu.libraryClaim then { s with fiu.supTimer := s.supervisionStart }
  else s

/-- SET_INTERLOCK (R188). -/
def execSetInterlock (h : Hdr) (setting value : Nat) (s : State) : Out :=
  serve h s (fun s =>
    match interlockRange setting with
    | none => refused s .badArgument
    | some (lo, hi) =>
      let s1 := { s with
        rsc.settings.interlock := s.rsc.settings.interlock.write setting (clampTo lo hi value) }
      (if setting = 3 then s1.periodWritten s.rsc.settings.interlock.supervision else s1,
        doneClamped (outside lo hi value)))

/-! ### Lookups (R189) -/

/-- A shutter command as its value (R175). -/
def ShutterCmd.code : ShutterCmd → Nat
  | .close => 0 | .open => 1

/-- The fields of a zone record that only aisle zones have; absent for Z4 (R175, log 9 DESIGN CHOICE). -/
def Zone.shutterFields (r : Zone) (z : ZoneNo) : List Field :=
  if z = frontEnd then [.absent 4, .absent 1, .absent 4, .absent 1, .absent 1, .absent 1]
  else [optTick r.parkTimer, u8 r.shutterCmd.code, optTick r.shutterTimer, flagField r.confirmed,
        flagField r.reopenPending, flagField r.latch]

/-- ZONE_INFO (R189). -/
def execZoneInfo (h : Hdr) (zone : Nat) (s : State) : Out :=
  serve h s (fun s =>
    match zone? zone with
    | none => refused s .badArgument
    | some z =>
      let r := s.zone z
      (s, doneWith ([u8 r.state.code, flagField r.lines.alarm.filtered,
        flagField r.lines.fault.filtered, flagField r.lines.pre.filtered, flagField r.lines.dis.filtered,
        flagField r.lines.rearm.filtered] ++ r.shutterFields z)))

/-- WING_INFO (R189). -/
def execWingInfo (h : Hdr) (s : State) : Out :=
  serve h s (fun s =>
    (s, doneWith [flagField s.fiu.libraryClaim, flagField s.fiu.buildingClaim, u8 s.authority.code,
      flagField s.fiu.building.filtered, u8 s.rsc.settings.interlock.supervision, u8 s.fiu.epoch.toNat,
      flagField s.fiu.lapsed, optTick s.fiu.supTimer]))

/-! ### Lines (R176) -/

/-- ZONE_LINE_CHANGE (R176). -/
def execZoneLineChange (z : ZoneNo) (line : ZoneLine) (level : Bool) (s : State) : Out :=
  let c := ((s.zone z).lines.get line).change level s.svp.tick s.rsc.settings.interlock.filter
  let s1 := s.setLine z line c.1
  if c.2 then .next (s1.begin.takeLine z line level).settle else .next s1

/-- ZONE_INPUT_TAKEN: the level of a line has held for the filter time (R176, R177, R185). -/
def execZoneInputTaken (z : ZoneNo) (line : ZoneLine) (s : State) : Out :=
  let l := (s.zone z).lines.get line
  if l.due s.svp.tick then .next (s.begin.takeLine z line l.level).settle else .next s

/-- AUTHORITY_LINE_CHANGE (R176). -/
def execAuthorityLineChange (level : Bool) (s : State) : Out :=
  let c := s.fiu.building.change level s.svp.tick s.rsc.settings.interlock.filter
  let s1 := { s with fiu.building := c.1 }
  if c.2 then .next (s1.takeBuilding level) else .next s1

/-- AUTHORITY_LINE_TAKEN (R176, R186). -/
def execAuthorityLineTaken (s : State) : Out :=
  if s.fiu.building.due s.svp.tick then .next (s.takeBuilding s.fiu.building.level) else .next s

/-! ### Timers and confirmations (R179, R183, R184, R187) -/

/-- PARK_TIMEOUT (R179). -/
def execParkTimeout (a : Aisle) (s : State) : Out :=
  let r := s.zone a.zone
  if dueAt r.parkTimer s.svp.tick then
    .next (((s.setZone a.zone { r with parkTimer := none }).post .craneUnparked a.zone.val
      (s.crane a).state.code 0).shutterStep a.zone)
  else .next s

/-- SHUTTER_TIMEOUT: a reopening is abandoned, a securing ends with the flag clear (R179, R183). -/
def execShutterTimeout (a : Aisle) (s : State) : Out :=
  let r := s.zone a.zone
  if dueAt r.shutterTimer s.svp.tick then
    if r.reopenPending then
      .next ((s.abandonReopen a.zone).post .shutterFault a.zone.val ShutterCmd.open.code 0)
    else
      .next (((s.setZone a.zone { r with shutterTimer := none, confirmed := false }).post .shutterFault
        a.zone.val ShutterCmd.close.code 0).endSecuring a.zone)
  else .next s

/-- SHUTTER_CLOSED: the closed confirmation (R175, R179). -/
def execShutterClosed (a : Aisle) (s : State) : Out :=
  let r := s.zone a.zone
  match r.shutterCmd with
  | .open => .next s
  | .close =>
    if r.shutterTimer.isSome then
      .next ((s.setZone a.zone { r with shutterTimer := none, confirmed := true }).endSecuring a.zone)
    else .next (s.setZone a.zone { r with confirmed := true })

/-- SHUTTER_OPENED: the open confirmation (R184). -/
def execShutterOpened (a : Aisle) (s : State) : Out :=
  if (s.zone a.zone).reopenPending then .next (s.begin.reopenAisle a).settle else .next s

/-- SUPERVISION_EXPIRY (R187). -/
def execSupervisionExpiry (s : State) : Out :=
  if dueAt s.fiu.supTimer s.svp.tick then .next s.superviseExpire else .next s

end Sys2Proof.Machine
end

