-- ==== Sys2Proof/Machine/Port.lean ====
section
/-! DEFINITION. The Service Port (chapter 11): STATUS, FETCH_NOTICE, RESET_CONTROLLER, the frames that
reach no request, reads of the response slot; the two resets, a record fault, and the tick. -/

namespace Sys2Proof.Machine

/-! ### STATUS and FETCH_NOTICE (R194, R195) -/

/-- STATUS (R194). -/
def execStatus (h : Hdr) (s : State) : Out :=
  serveAs .always h s (fun s => (s, doneWith [u32 s.statusWord, tickField s.svp.tick]))

/-- Removes the oldest notice; OVERRUN is cleared with the last one (R195). -/
def State.takeNotice (s : State) (n : Notice) (rest : List Notice) : State × Reply :=
  ({ s with svp.notices := rest, svp.overrun := s.svp.overrun && !rest.isEmpty },
    doneWith [u8 n.kind.code, u32 n.arg1, u32 n.arg2, u32 n.arg3, u8 rest.length])

/-- FETCH_NOTICE (R195). -/
def execFetchNotice (h : Hdr) (s : State) : Out :=
  serveAs .exceptMounting h s (fun s =>
    match s.svp.notices with
    | n :: rest => s.takeNotice n rest
    | [] => (s, doneWith [u8 0, u32 0, u32 0, u32 0, u8 0]))

/-! ### Resets (R190, R197, R198) -/

/-- An aisle queue after a reset: RUNNING, or STOPPED with reason LATCH (R63, R197). -/
def Queue.afterReset (latched : Bool) : Queue :=
  if latched then { Queue.reset with state := .stopped, reason := some .latch } else Queue.reset

/-- No bin has an owner: the jobs, stations and fire holds that owners name are volatile, and from a reset until
mount has run owners are not read (R41, R190). -/
def State.clearOwners (s : State) : State :=
  { s with rsc.bins := s.rsc.bins.map (fun e => (e.1, { e.2 with owner := .none })) }

/-- No slot is held for a job: held-for is absent after every reset (R1). A record as initialised is not listed. -/
def State.clearHeld (s : State) : State :=
  { s with rsc.slots := s.rsc.slots.filterMap (fun e =>
      let r : Slot := { e.2 with held := none }
      if r = Slot.initial (SlotAddr.ofKey e.1) then none else some (e.1, r)) }

/-- The volatile state that both resets clear (R197, step 1), with held-for and owners (R1, R41). -/
def State.clearVolatile (s : State) : State :=
  { s.clearOwners.clearHeld with
    outputs := s.outputs ++ allAisles.map (fun a => Output.order a .clear)
    svp.notices := []
    svp.overrun := false
    svp.mountState := .mounting
    svp.longOp := some .mount
    clu := { claims := [], fireJobs := [] }
    dsp :=
      { jobs := [], lastJob := 127, queues := Vector.ofFn (fun a => Queue.afterReset (s.latched a)),
        audit := none }
    cranes := Vector.replicate 4 (Crane.reset s.svp.tick)
    stu := { stations := Vector.replicate 6 Station.reset, batches := [], batchSeq := 0 }
    circ := { turnover := none, listing := none, pages := [], delivered := [] }
    riu := { fills := [], noQualifier := false } }

/-- A controller reset: steps 1 to 4 of R197, and R190. -/
def State.controllerReset (s : State) : State :=
  let old := s.authority
  let s1 := s.clearVolatile
  let s2 := { s1 with fiu.libraryClaim := false, fiu.lapsed := false, fiu.supTimer := none }
  if s2.authority = old then s2 else s2.post .authority s2.authority.code 0 0

/-- RESET_CONTROLLER (R197): its DONE stands in the response slot. -/
def execResetController (h : Hdr) (s : State) : Out :=
  serveAs .exceptMounting h s (fun s => (s.controllerReset, refuse .done))

/-- A line whose level a power-on reset finds, with no filter wait (R190). -/
def Line.found (level : Bool) : Line := { level := level, filtered := level, count := none }

/-- The lines of a zone as a power-on reset finds them (R190). -/
def linesFound (l : LineLevels) : ZoneLines :=
  { alarm := .found l.alarm, fault := .found l.fault, pre := .found l.pre, dis := .found l.dis,
    rearm := .found l.rearm }

/-- A zone after a power-on reset: SECURED when active, STANDBY when not (R190). -/
def Zone.found (l : LineLevels) (closed : Bool) : Zone :=
  let r : Zone := { Zone.reset with lines := linesFound l, confirmed := closed }
  if r.isActive then { r with state := .secured } else r

/-- The fire interlock after a power-on reset (R190); the levels found are the command's operands (log 26 DESIGN
CHOICE). -/
def Fiu.found (f : LinesFound) : Fiu :=
  let r : Fiu :=
    { zones := Vector.ofFn (fun z : ZoneNo =>
        Zone.found f.zones[z] (match z.aisle? with | some a => f.closed[a] | none => false))
      building := Line.found f.building
      libraryClaim := false
      buildingClaim := false
      epoch := 0
      lapsed := false
      supTimer := none }
  { r with buildingClaim := r.buildingClaimNow }

/-- POWER_ON_RESET (R190, R198): the volatile state is empty, the interlock is derived from its lines, and
mount starts. The tick count starts at 0. -/
def execPowerOnReset (lines : LinesFound) (s : State) : Out :=
  let s1 := { s with fiu := Fiu.found lines, svp.tick := 0 }
  .next { s1.clearVolatile with
    svp.resp := none
    svp.keptStation := []
    svp.keptPort := [] }

/-! ### Frames that reach no request (R192, R193) -/

/-- What a raw frame meets: a full slot discards it; a failed framing test answers BAD_FRAME with tag 0
(R192, R193). A frame that passes every test names a request by its code, and the manual lists no codes
(log 2 DESIGN CHOICE). -/
def rawFrame (frame : List Byte) (s : State) : Out :=
  if s.svp.resp.isSome then .next s
  else if frameOk frame then .refused .requestCodeUnlisted
  else .next (s.respond 0 (refuse .badFrame))

/-- BAD_FRAME (R192). -/
def execBadFrame (frame : List Byte) (s : State) : Out := rawFrame frame s

/-- UNKNOWN_REQUEST: a well-framed request whose code the part does not know (R192). -/
def execUnknownRequest (tag : Byte) (_code : Byte) (s : State) : Out :=
  if s.svp.resp.isSome then .next s
  else if tag = 0 then .next (s.respond 0 (refuse .badFrame))
  else .next (s.respond tag (refuse .unknownRequest))

/-- FRAME_WHILE_SLOT_FULL (R193). -/
def execFrameWhileSlotFull (frame : List Byte) (s : State) : Out := rawFrame frame s

/-- RESPONSE_READ (R193): the bytes clocked out; the slot empties when the read completes. A read clocked past the
last byte of the response, or of A5h 00h, has no further bytes (log 54 DESIGN CHOICE). -/
def execResponseRead (clocked : Nat) (s : State) : Out :=
  match s.svp.resp with
  | none => .next { s with outputs := s.outputs ++ [.read (emptyRead.take clocked)] }
  | some r =>
    let s1 := { s with outputs := s.outputs ++ [.read (r.frame.take clocked)] }
    if r.frame.length ≤ clocked then .next { s1 with svp.resp := none } else .next s1

/-! ### The machine (R194, R200) -/

/-- RECORD_FAULT: the record memory does not answer during mount (R200). -/
def execRecordFault (s : State) : Out :=
  if s.svp.mountState = .mounting then
    .next ({ s with svp.mountState := .recordFault, svp.longOp := none }.post .recordFault 0 0 0)
  else .next s

/-- TICK: the tick count rises by 1, modulo 2^32. -/
def execTick (s : State) : Out := .next { s with svp.tick := s.svp.tick + 1 }

end Sys2Proof.Machine
end

