-- ==== Sys2Proof/Machine/Mount.lean ====
section
/-! DEFINITION. Mount (R199): the initialisation of the record memory, the repairs in their order (R22, R39,
R40, R147, R148, R162), and what follows them. -/

namespace Sys2Proof.Machine

/-! ### 1. Bins and slots (R22, steps 1 to 6) -/

/-- A bin's state after step 1 of R22: UNUSED and STORED bins stay, every other is UNCERTAIN. -/
def BinState.mounted : BinState → BinState
  | .unused => .unused
  | .stored x => .stored x
  | .onCrane _ | .enRoute _ | .presented _ _ | .returning _ _ | .atPort _ _ | .uncertain => .uncertain

/-- A bin after steps 1 and 4 of R22. -/
def Bin.mounted (r : Bin) : Bin := { r with state := r.state.mounted, owner := .none }

/-- A slot's state after steps 2 and 5 of R22, over the bins as step 1 left them. -/
def State.mountedSlot (s : State) (x : SlotAddr) : SlotState → SlotState
  | .occupied b => if (s.bin b).state = .stored x then .occupied b else .free
  | .reserved _ => .free
  | .free => .free

/-- Steps 1 and 4 of R22. -/
def State.mountBins (s : State) : State :=
  { s with rsc.bins := s.rsc.bins.map (fun e => (e.1, e.2.mounted)) }

/-- Steps 2, 3 and 5 of R22; a record as initialised is not listed. -/
def State.mountSlots (s : State) : State :=
  { s with rsc.slots := s.rsc.slots.filterMap (fun e =>
      let x := SlotAddr.ofKey e.1
      let r : Slot := { e.2 with state := s.mountedSlot x e.2.state, held := none }
      if r = Slot.initial x then none else some (e.1, r)) }

/-- Step 6 of R22: a STORED bin whose slot does not name it is UNCERTAIN. -/
def State.mountStored (s : State) : State :=
  { s with rsc.bins := s.rsc.bins.map (fun e =>
      match e.2.state with
      | .stored x =>
        if (s.slot x).state = .occupied e.1 then e else (e.1, { e.2 with state := .uncertain })
      | _ => e) }

/-! ### 2. Loans (R147) -/

/-- The loan with its due day, when its borrower and item are known; none when it is removed (R147). -/
def State.mountLoan (s : State) (r : Loan) : Option Loan :=
  match s.item r.item, s.borrower r.borrower with
  | some it, some b => some (if r.due ≤ r.checkout then { r with due := s.dueDay r.checkout b.cls it.cls } else r)
  | _, _ => none

/-- A loan stands against another of the same item: a later checkout day, or an equal one and a higher
number (R147). -/
def outranks (e f : Nat × Loan) : Bool :=
  f.2.checkout < e.2.checkout || (f.2.checkout = e.2.checkout && f.1 < e.1)

/-- The loans after R147. -/
def State.mountLoans (s : State) : State :=
  let known := s.rsc.loans.filterMap (fun e => (s.mountLoan e.2).map (fun r => (e.1, r)))
  { s with rsc.loans := known.filter (fun e =>
      !known.any (fun f => f.2.item = e.2.item && outranks f e)) }

/-! ### 3 and 4. Items and loan counts (R39, R148) -/

/-- The loan that names an item (R138). -/
def State.loanNaming (s : State) (acc : Nat) : Option Nat :=
  (s.rsc.loans.find? (fun e => e.2.item = acc)).map Prod.fst

/-- An item's state after R39. -/
def State.alignedState (s : State) (acc : Nat) (st : ItemState) : ItemState :=
  match s.loanNaming acc with
  | some n => .onLoan n
  | none =>
    match st with
    | .onLoan _ => .missing
    | other => other

/-- The items and the tray after R39. -/
def State.mountItems (s : State) : State :=
  { s with
    rsc.items := s.rsc.items.map (fun e => (e.1, { e.2 with state := s.alignedState e.1 e.2.state }))
    rsc.tray := s.rsc.tray.filter (fun acc => (s.loanNaming acc).isNone) }

/-- The loan counts after R148. -/
def State.mountLoanCounts (s : State) : State :=
  { s with rsc.borrowers := s.rsc.borrowers.map (fun e =>
      (e.1, { e.2 with loans := (s.rsc.loans.filter (fun l => l.2.borrower = e.1)).length })) }

/-! ### 5. Holds (R162, steps 1 to 5) -/

/-- Step 1 of R162. -/
def State.mountPool (s : State) : State :=
  { s with rsc.holds := s.rsc.holds.filter (fun e =>
      (s.item e.2.item).isSome && (s.borrower e.2.borrower).isSome) }

/-- Step 2 of R162: an item's queue made to agree with the pool. -/
def State.mountQueue (s : State) (acc : Nat) (q : List Nat) : List Nat :=
  let kept := q.filter (fun h => (s.hold h).any (·.item = acc))
  let missing := s.rsc.holds.filter (fun e => e.2.item = acc && !kept.contains e.1)
  kept ++ (sortBy (fun e => e.2.placed) missing).map Prod.fst

/-- Step 3 of R162: a borrower's later holds, then the holds beyond the eighth, leave the queue. Of a hold that the
queue references twice only the later reference goes: the hold keeps its first place and its record (log 59 DESIGN
CHOICE). -/
def State.mountUnique (s : State) (q : List Nat) : List Nat :=
  (q.foldl (fun (kept : List Nat) h =>
    if kept.any (fun k => (s.hold k).map (·.borrower) = (s.hold h).map (·.borrower)) then kept
    else kept ++ [h]) []).take Config.itemHolds

/-- Step 4 of R162 for one hold of an item's queue: READY stays only at the head of a HOLD_SHELF item. -/
def State.mountReady (s : State) (it : Item) (h : Nat) : State :=
  let shelf := match it.state with
    | .holdShelf _ => true
    | _ => false
  match s.hold h with
  | some r => if shelf && it.queue.head? = some h then s else s.setHold h { r with state := .waiting }
  | none => s

/-- Steps 2 to 5 of R162 for one item. -/
def State.mountHoldsOf (s : State) (acc : Nat) : State :=
  match s.item acc with
  | some it =>
    let q := s.mountQueue acc it.queue
    let u := s.mountUnique q
    let s1 := s.each (q.filter (fun h => !u.contains h)) State.delHold
    let s2 := s1.each u (fun s h => s.mountReady { it with queue := u } h)
    let own := u.filter (fun h => (s2.hold h).any (fun r => s2.lentTo it r.borrower))
    (s2.each own State.delHold).setItem acc { it with queue := u.filter (fun h => !own.contains h) }
  | none => s

/-- The holds after R162. -/
def State.mountHolds (s : State) : State :=
  let s1 := s.mountPool
  s1.each (s1.rsc.items.map Prod.fst) State.mountHoldsOf

/-! ### 6. Hold counts and recalls (R148) -/

/-- The hold counts after R148. -/
def State.mountHoldCounts (s : State) : State :=
  { s with rsc.borrowers := s.rsc.borrowers.map (fun e =>
      (e.1, { e.2 with holds := (s.rsc.holds.filter (fun h => h.2.borrower = e.1)).length })) }

/-- The recall of the loans that R156 would otherwise leave unmarked (R148), in ascending loan number (log 8 DESIGN
CHOICE). -/
def State.mountRecalls (s : State) : State :=
  s.each s.rsc.loans (fun s e =>
    match s.item e.2.item with
    | some it => if s.hasWaiting it && !e.2.recalled then s.recallLoan s.rsc.today e.1 else s
    | none => s)

/-! ### 7 and 8. Shelves, hold shelf, tray, fills and counts (R22 step 7, R40) -/

/-- Fills and counts of the bins in use, emptied for the recount (R22, step 7). -/
def State.mountEmptied (s : State) : State :=
  { s with rsc.bins := s.rsc.bins.map (fun e =>
      if e.2.state = .unused then e else (e.1, { e.2 with fills := Vector.replicate 8 0, count := 0 })) }

/-- A SHELVED item is counted in its compartment, or becomes MISSING when its bin is UNUSED or the
compartment would pass 40 (R40, steps 1 and 2; R22, step 7). -/
def State.mountShelved (s : State) (acc : Nat) : State :=
  match s.item acc with
  | some it =>
    match it.state.shelvedIn with
    | some (b, k) =>
      if (s.bin b).state ≠ .unused ∧ (s.bin b).hasRoom it.thickness k then
        s.setBin b ((s.bin b).add k it.thickness)
      else s.setItemState acc .missing
    | none => s
  | none => s

/-- Step 3 of R40: a HOLD_SHELF item without a READY first hold is AT_DESK at its desk station. -/
def State.mountShelf (s : State) (it : Item) : Item :=
  match it.state with
  | .holdShelf t => if (s.firstHold it).any (·.2.isReady) then it else { it with state := .atDesk t }
  | _ => it

/-- Step 5 of R40 for one item: an IN_TRAY item that the tray does not name joins it, or is AT_DESK at S5. -/
def State.mountTrayed (s : State) (acc : Nat) : State :=
  match s.item acc with
  | some it =>
    if it.state = .inTray ∧ !s.rsc.tray.contains acc then
      if s.rsc.tray.length < Config.trayPlaces then s.trayAdd acc
      else s.setItemState acc (.atDesk serviceStation)
    else s
  | none => s

/-- R40 and step 7 of R22. A tray entry that names an IN_TRAY item a second time stays, for R40 removes none such
(log 60 DESIGN CHOICE). -/
def State.mountShelves (s : State) : State :=
  let accs := s.rsc.items.map Prod.fst
  let s1 := s.mountEmptied.each accs State.mountShelved
  let s2 := { s1 with rsc.items := s1.rsc.items.map (fun (e : Nat × Item) => (e.1, s1.mountShelf e.2)) }
  let s3 := { s2 with rsc.tray := s2.rsc.tray.filter (fun (acc : Nat) =>
    (s2.item acc).any (fun (r : Item) => r.state = ItemState.inTray)) }
  s3.each accs State.mountTrayed

/-! ### The whole of mount -/

/-- The repairs over a valid record memory, in the order of R199. The pages of the last step are listed, UNPLACED; none
of the repairs creates a job (R56). -/
def State.mountRepairs (s : State) : State :=
  let s1 := s.mountBins.mountSlots.mountStored
  let s2 := s1.mountLoans.mountItems.mountLoanCounts
  let s3 := s2.mountHolds.mountHoldCounts.mountRecalls
  s3.mountShelves.each (s3.rsc.items.map Prod.fst) State.listPage

/-- The bins that mount made UNCERTAIN (R199). -/
def madeUncertain (old new : State) : Nat :=
  (new.rsc.bins.filter (fun e => e.2.state = .uncertain && (old.bin e.1).state ≠ .uncertain)).length

/-- The items that mount made MISSING (R199). -/
def madeMissing (old new : State) : Nat :=
  (new.rsc.items.filter (fun e =>
    e.2.state = .missing && (old.item e.1).any (·.state ≠ .missing))).length

/-- The record memory after mount: repaired, or initialised when the format record is not valid (R199). -/
def State.mountRecords (s : State) : State :=
  if s.rsc.formatOk then s.mountRepairs else { s with rsc := Rsc.initial true }

/-- The events kept during mount are taken: station arrivals, then port arrivals (R101, R104, R199). The tick of
each arrival is that of its taking (log 39 DESIGN CHOICE). -/
def State.takeKept (s : State) : State :=
  let s1 := { s with svp.keptStation := [], svp.keptPort := [] }
  let s2 := s1.each s.svp.keptStation (fun s e => (s.begin.stationArrival e.station e.pos e.bin).settle)
  s2.each s.svp.keptPort (fun s e => (s.begin.portArrival e.aisle e.bin).settle)

/-- The pages that mount's last step has listed, behind any that stood before, are placed (R153, R162). -/
def State.placeListed (s : State) (before : List Page) : State :=
  s.each (s.circ.pages.drop before.length) State.placePage

/-- The end of mount (R199). The pages are placed once mount has ended: what job they need is then created by the CLU
(R42) and not by mount (R56; log 51 DEDUCED). -/
def State.mountEnd (s : State) : State :=
  let s1 := s.mountRecords
  let s2 := s1.post .mountDone (madeUncertain s s1) (madeMissing s s1) (bit (!s.rsc.formatOk))
  let s3 := { s2 with svp.longOp := none, svp.mountState := .mounted }
  let s4 := s3.placeListed s.circ.pages
  let s5 := if s4.frontNormal then s4 else s4.begin.holdStations.settle
  s5.takeKept

/-- MOUNT_DONE: a running mount completes (R199, log 37 DESIGN CHOICE). -/
def execMountDone (s : State) : Out :=
  if s.svp.mountState = .mounting then .next s.mountEnd else .next s

end Sys2Proof.Machine
end

