-- ==== Sys2Proof/Machine/Dispatch.lean ====
section
/-! DEFINITION. The dispatch: one arm per command, each one direct call of its meaning. -/

namespace Sys2Proof.Machine

def exec (i : Instr) (s : State) : Host.Outcome State Fault Refusal :=
  match i with
  -- bins, slots and the rack map
  | .addBin h bin height climate place => Sys2Proof.Machine.execAddBin h bin height climate place s
  | .retireBin h bin => Sys2Proof.Machine.execRetireBin h bin s
  | .resolveBin h r => Sys2Proof.Machine.execResolveBin h r s
  | .setSlot h x height climate blocked => Sys2Proof.Machine.execSetSlot h x height climate blocked s
  | .setAisle h aisle inService => Sys2Proof.Machine.execSetAisle h aisle inService s
  | .slotQuery h height climate aisles => Sys2Proof.Machine.execSlotQuery h height climate aisles s
  | .binInfo h bin => Sys2Proof.Machine.execBinInfo h bin s
  | .slotInfo h x => Sys2Proof.Machine.execSlotInfo h x s
  | .moveBin h bin priority dest => Sys2Proof.Machine.execMoveBin h bin priority dest s
  -- items and compartments
  | .addItem h chars check thickness cls station => Sys2Proof.Machine.execAddItem h chars check thickness cls station s
  | .withdrawItem h chars => Sys2Proof.Machine.execWithdrawItem h chars s
  | .pickItem h chars station => Sys2Proof.Machine.execPickItem h chars station s
  | .placeItem h chars station position compartment => Sys2Proof.Machine.execPlaceItem h chars station position compartment s
  | .markMissing h chars => Sys2Proof.Machine.execMarkMissing h chars s
  | .itemInfo h chars => Sys2Proof.Machine.execItemInfo h chars s
  | .listItems h bin cursor => Sys2Proof.Machine.execListItems h bin cursor s
  -- aisle queues and dispatch
  | .stopAisle h aisle => Sys2Proof.Machine.execStopAisle h aisle s
  | .startAisle h aisle => Sys2Proof.Machine.execStartAisle h aisle s
  | .cancelJob h job => Sys2Proof.Machine.execCancelJob h job s
  | .auditAisle h aisle => Sys2Proof.Machine.execAuditAisle h aisle s
  | .setDispatch h setting value => Sys2Proof.Machine.execSetDispatch h setting value s
  | .jobInfo h job => Sys2Proof.Machine.execJobInfo h job s
  | .aisleInfo h aisle => Sys2Proof.Machine.execAisleInfo h aisle s
  -- cranes
  | .recoverCrane h aisle disposition x => Sys2Proof.Machine.execRecoverCrane h aisle disposition x s
  | .portRemove h aisle bin => Sys2Proof.Machine.execPortRemove h aisle bin s
  | .craneInfo h aisle => Sys2Proof.Machine.execCraneInfo h aisle s
  | .setCrane h value => Sys2Proof.Machine.execSetCrane h value s
  -- stations, fetches and batches
  | .openStation h station => Sys2Proof.Machine.execOpenStation h station s
  | .closeStation h station => Sys2Proof.Machine.execCloseStation h station s
  | .releaseBin h station position => Sys2Proof.Machine.execReleaseBin h station position s
  | .fetch h station priority target => Sys2Proof.Machine.execFetch h station priority target s
  | .fetchBatch h station mode priority targets => Sys2Proof.Machine.execFetchBatch h station mode priority targets s
  | .cancelBatch h batch => Sys2Proof.Machine.execCancelBatch h batch s
  | .setStation h setting station value => Sys2Proof.Machine.execSetStation h setting station value s
  | .stationInfo h station => Sys2Proof.Machine.execStationInfo h station s
  | .batchInfo h batch => Sys2Proof.Machine.execBatchInfo h batch s
  -- borrowers, loans and the calendar
  | .registerBorrower h token cls => Sys2Proof.Machine.execRegisterBorrower h token cls s
  | .setBorrower h token cls blocked => Sys2Proof.Machine.execSetBorrower h token cls blocked s
  | .retireBorrower h token => Sys2Proof.Machine.execRetireBorrower h token s
  | .setPolicy h cls field value => Sys2Proof.Machine.execSetPolicy h cls field value s
  | .setCalendar h first count mark => Sys2Proof.Machine.execSetCalendar h first count mark s
  | .setCalendarBase h base => Sys2Proof.Machine.execSetCalendarBase h base s
  | .setDay h day => Sys2Proof.Machine.execSetDay h day s
  | .checkout h chars token => Sys2Proof.Machine.execCheckout h chars token s
  | .renew h chars => Sys2Proof.Machine.execRenew h chars s
  | .returnAtDesk h chars => Sys2Proof.Machine.execReturnAtDesk h chars s
  | .earliestDue h selector arg => Sys2Proof.Machine.execEarliestDue h selector arg s
  | .listLoans h page => Sys2Proof.Machine.execListLoans h page s
  | .borrowerInfo h token => Sys2Proof.Machine.execBorrowerInfo h token s
  | .loanInfo h loan => Sys2Proof.Machine.execLoanInfo h loan s
  | .calendarInfo h first count => Sys2Proof.Machine.execCalendarInfo h first count s
  -- holds
  | .placeHold h chars token => Sys2Proof.Machine.execPlaceHold h chars token s
  | .cancelHold h chars token => Sys2Proof.Machine.execCancelHold h chars token s
  | .setRecall h setting value => Sys2Proof.Machine.execSetRecall h setting value s
  | .holdInfo h chars token => Sys2Proof.Machine.execHoldInfo h chars token s
  -- returns
  | .trayRemove h chars station => Sys2Proof.Machine.execTrayRemove h chars station s
  | .trayInfo h => Sys2Proof.Machine.execTrayInfo h s
  -- fire zones and wing authority
  | .reopenZone h zone => Sys2Proof.Machine.execReopenZone h zone s
  | .claimWing h => Sys2Proof.Machine.execClaimWing h s
  | .yieldWing h => Sys2Proof.Machine.execYieldWing h s
  | .supervise h epoch => Sys2Proof.Machine.execSupervise h epoch s
  | .setInterlock h setting value => Sys2Proof.Machine.execSetInterlock h setting value s
  | .zoneInfo h zone => Sys2Proof.Machine.execZoneInfo h zone s
  | .wingInfo h => Sys2Proof.Machine.execWingInfo h s
  -- the Service Port
  | .status h => Sys2Proof.Machine.execStatus h s
  | .fetchNotice h => Sys2Proof.Machine.execFetchNotice h s
  | .resetController h => Sys2Proof.Machine.execResetController h s
  | .badFrame frame => Sys2Proof.Machine.execBadFrame frame s
  | .unknownRequest tag code => Sys2Proof.Machine.execUnknownRequest tag code s
  | .frameWhileSlotFull frame => Sys2Proof.Machine.execFrameWhileSlotFull frame s
  | .responseRead clocked => Sys2Proof.Machine.execResponseRead clocked s
  -- drive messages
  | .ready a => Sys2Proof.Machine.execReady a s
  | .accepted a tag => Sys2Proof.Machine.execAccepted a tag s
  | .picked a tag => Sys2Proof.Machine.execPicked a tag s
  | .done a tag pos => Sys2Proof.Machine.execDone a tag pos s
  | .verified a tag read => Sys2Proof.Machine.execVerified a tag read s
  | .aborted a tag pos load => Sys2Proof.Machine.execAborted a tag pos load s
  | .fault a tag kind pos load => Sys2Proof.Machine.execFault a tag kind pos load s
  | .parked a => Sys2Proof.Machine.execParked a s
  | .rested a => Sys2Proof.Machine.execRested a s
  -- crane timers
  | .acceptTimeout a => Sys2Proof.Machine.execAcceptTimeout a s
  | .readyTimeout a => Sys2Proof.Machine.execReadyTimeout a s
  | .deadlineExpiry a => Sys2Proof.Machine.execDeadlineExpiry a s
  | .restTimerExpiry a => Sys2Proof.Machine.execRestTimerExpiry a s
  -- ports, stations and the sorter
  | .portArrival a bin => Sys2Proof.Machine.execPortArrival a bin s
  | .stationArrival st p bin => Sys2Proof.Machine.execStationArrival st p bin s
  | .releaseButton st => Sys2Proof.Machine.execReleaseButton st s
  | .residenceExpiry st p => Sys2Proof.Machine.execResidenceExpiry st p s
  | .lampPhase st => Sys2Proof.Machine.execLampPhase st s
  | .scan label => Sys2Proof.Machine.execScan label s
  -- fire zones and authority
  | .zoneLineChange z line level => Sys2Proof.Machine.execZoneLineChange z line level s
  | .zoneInputTaken z line => Sys2Proof.Machine.execZoneInputTaken z line s
  | .authorityLineChange level => Sys2Proof.Machine.execAuthorityLineChange level s
  | .authorityLineTaken => Sys2Proof.Machine.execAuthorityLineTaken s
  | .parkTimeout a => Sys2Proof.Machine.execParkTimeout a s
  | .shutterTimeout a => Sys2Proof.Machine.execShutterTimeout a s
  | .shutterClosed a => Sys2Proof.Machine.execShutterClosed a s
  | .shutterOpened a => Sys2Proof.Machine.execShutterOpened a s
  | .supervisionExpiry => Sys2Proof.Machine.execSupervisionExpiry s
  -- the machine
  | .powerOnReset lines => Sys2Proof.Machine.execPowerOnReset lines s
  | .turnoverExamination => Sys2Proof.Machine.execTurnoverExamination s
  | .mountDone => Sys2Proof.Machine.execMountDone s
  | .recordFault => Sys2Proof.Machine.execRecordFault s
  | .tick => Sys2Proof.Machine.execTick s

end Sys2Proof.Machine
end

