-- ==== Sys2Proof/WellFormed.lean ====
section
/-! DEFINITION. Well-formed commands: operands of the width their place has in a frame (R191, log 14 DESIGN CHOICE)
or on a link (R83), accession numbers of nine characters, a tag that the framing passes (R192). The range tests of
chapter tables are the part's own and are not repeated here. -/

namespace Sys2Proof

open Sys2Proof.Machine (frameOk)

/-- A value of one byte. -/
def fits8 (n : Nat) : Bool := n < 256
/-- A value of two bytes. -/
def fits16 (n : Nat) : Bool := n < 65536
/-- A value of three bytes: a token. -/
def fits24 (n : Nat) : Bool := n < 16777216
/-- An accession number as carried: nine characters (R191). -/
def chars9 (cs : List Byte) : Bool := cs.length = 9
/-- A request's frame passed the framing tests, so its tag is not 0 (R192). -/
def Hdr.wf (h : Hdr) : Bool := h.tag ≠ 0
/-- A slot address of four bytes (R191). -/
def RawSlot.wf (x : RawSlot) : Bool := fits8 x.aisle && fits8 x.side && fits8 x.level && fits8 x.column
/-- The place of ADD_BIN. -/
def BinPlace.wf : BinPlace → Bool
  | .slot x => x.wf
  | .position t p => fits8 t && fits8 p
/-- The disposition of RESOLVE_BIN. -/
def Resolution.wf : Resolution → Bool
  | .atSlot b x => fits16 b && x.wf
  | .lost b => fits16 b
  | .atPosition t p b => fits8 t && fits8 p && b.all fits16
/-- A fetch target. -/
def Target.wf : Target → Bool
  | .accession cs => chars9 cs
  | .bin n => fits16 n
/-- A cursor of LIST_ITEMS. -/
def ListCursor.wf : ListCursor → Bool
  | .start => true
  | .after cs => chars9 cs
/-- START or NEXT of LIST_LOANS. -/
def LoanPage.wf : LoanPage → Bool
  | .start k t => fits8 k && t.all fits24
  | .next => true

/-- A well-formed command. -/
def Instr.wf : Instr → Bool
  | .addBin h b ht cl x => h.wf && fits16 b && fits8 ht && fits8 cl && x.wf
  | .retireBin h b => h.wf && fits16 b
  | .resolveBin h r => h.wf && r.wf
  | .setSlot h x ht cl _ => h.wf && x.wf && fits8 ht && fits8 cl
  | .setAisle h a _ => h.wf && fits8 a
  | .slotQuery h ht cl _ => h.wf && fits8 ht && fits8 cl
  | .binInfo h b => h.wf && fits16 b
  | .slotInfo h x => h.wf && x.wf
  | .moveBin h b p x => h.wf && fits16 b && fits8 p && x.all RawSlot.wf
  | .addItem h cs _ th cl st => h.wf && chars9 cs && fits8 th && fits8 cl && fits8 st
  | .withdrawItem h cs => h.wf && chars9 cs
  | .pickItem h cs st => h.wf && chars9 cs && fits8 st
  | .placeItem h cs st p k => h.wf && chars9 cs && fits8 st && p.all fits8 && k.all fits8
  | .markMissing h cs => h.wf && chars9 cs
  | .itemInfo h cs => h.wf && chars9 cs
  | .listItems h b c => h.wf && fits16 b && c.wf
  | .stopAisle h a => h.wf && fits8 a
  | .startAisle h a => h.wf && fits8 a
  | .cancelJob h j => h.wf && fits8 j
  | .auditAisle h a => h.wf && fits8 a
  | .setDispatch h k v => h.wf && fits8 k && fits16 v
  | .jobInfo h j => h.wf && fits8 j
  | .aisleInfo h a => h.wf && fits8 a
  | .recoverCrane h a d x => h.wf && fits8 a && fits8 d && x.all RawSlot.wf
  | .portRemove h a b => h.wf && fits8 a && fits16 b
  | .craneInfo h a => h.wf && fits8 a
  | .setCrane h v => h.wf && fits16 v
  | .openStation h st => h.wf && fits8 st
  | .closeStation h st => h.wf && fits8 st
  | .releaseBin h st p => h.wf && fits8 st && fits8 p
  | .fetch h st p t => h.wf && fits8 st && fits8 p && t.wf
  | .fetchBatch h st m p ts => h.wf && fits8 st && fits8 m && fits8 p && fits8 ts.length && ts.all Target.wf
  | .cancelBatch h b => h.wf && fits8 b
  | .setStation h k st v => h.wf && fits8 k && st.all fits8 && fits16 v
  | .stationInfo h st => h.wf && fits8 st
  | .batchInfo h b => h.wf && fits8 b
  | .registerBorrower h t c => h.wf && fits24 t && fits8 c
  | .setBorrower h t c _ => h.wf && fits24 t && fits8 c
  | .retireBorrower h t => h.wf && fits24 t
  | .setPolicy h c k v => h.wf && fits8 c && fits8 k && fits16 v
  | .setCalendar h f n m => h.wf && fits16 f && fits8 n && fits8 m
  | .setCalendarBase h b => h.wf && fits16 b
  | .setDay h d => h.wf && fits16 d
  | .checkout h cs t => h.wf && chars9 cs && fits24 t
  | .renew h cs => h.wf && chars9 cs
  | .returnAtDesk h cs => h.wf && chars9 cs
  | .earliestDue h k a => h.wf && fits8 k && a.all fits24
  | .listLoans h p => h.wf && p.wf
  | .borrowerInfo h t => h.wf && fits24 t
  | .loanInfo h n => h.wf && fits16 n
  | .calendarInfo h f n => h.wf && fits16 f && fits8 n
  | .placeHold h cs t => h.wf && chars9 cs && fits24 t
  | .cancelHold h cs t => h.wf && chars9 cs && fits24 t
  | .setRecall h k v => h.wf && fits8 k && fits16 v
  | .holdInfo h cs t => h.wf && chars9 cs && fits24 t
  | .trayRemove h cs st => h.wf && chars9 cs && fits8 st
  | .trayInfo h => h.wf
  | .reopenZone h z => h.wf && fits8 z
  | .claimWing h => h.wf
  | .yieldWing h => h.wf
  | .supervise h e => h.wf && fits8 e
  | .setInterlock h k v => h.wf && fits8 k && fits16 v
  | .zoneInfo h z => h.wf && fits8 z
  | .wingInfo h => h.wf
  | .status h => h.wf
  | .fetchNotice h => h.wf
  | .resetController h => h.wf
  | .badFrame f => !frameOk f
  | .unknownRequest t _ => t ≠ 0
  | .frameWhileSlotFull _ => true
  | .responseRead _ => true
  | .ready _ => true
  | .accepted _ _ => true
  | .picked _ _ => true
  | .done _ _ _ => true
  | .verified _ _ b => b.all fits16
  | .aborted _ _ _ _ => true
  | .fault _ _ _ _ _ => true
  | .parked _ => true
  | .rested _ => true
  | .acceptTimeout _ => true
  | .readyTimeout _ => true
  | .deadlineExpiry _ => true
  | .restTimerExpiry _ => true
  | .portArrival _ b => b.all fits16
  | .stationArrival _ _ b => b.all fits16
  | .releaseButton _ => true
  | .residenceExpiry _ _ => true
  | .lampPhase _ => true
  | .scan l => l.all (fun e => chars9 e.1)
  | .zoneLineChange _ _ _ => true
  | .zoneInputTaken _ _ => true
  | .authorityLineChange _ => true
  | .authorityLineTaken => true
  | .parkTimeout _ => true
  | .shutterTimeout _ => true
  | .shutterClosed _ => true
  | .shutterOpened _ => true
  | .supervisionExpiry => true
  | .powerOnReset _ => true
  | .turnoverExamination => true
  | .mountDone => true
  | .recordFault => true
  | .tick => true

end Sys2Proof
end

