-- ==== Sys2Proof/Safety.lean ====
section
/-! DEFINITION. The terms that claims are stated in: a request that is served, the form of the tables, the
limits of the queues and lists, the orders that move a bin, and what the movement of bins leaves alone. -/

namespace Sys2Proof

/-! ### Kinds of commands -/

/-- The frame header of a request; none for an event. -/
def Instr.header : Instr → Option Hdr
  | .addBin h _ _ _ _ | .retireBin h _ | .resolveBin h _ | .setSlot h _ _ _ _ | .setAisle h _ _ => some h
  | .slotQuery h _ _ _ | .binInfo h _ | .slotInfo h _ | .moveBin h _ _ _ => some h
  | .addItem h _ _ _ _ _ | .withdrawItem h _ | .pickItem h _ _ | .placeItem h _ _ _ _ => some h
  | .markMissing h _ | .itemInfo h _ | .listItems h _ _ => some h
  | .stopAisle h _ | .startAisle h _ | .cancelJob h _ | .auditAisle h _ | .setDispatch h _ _ => some h
  | .jobInfo h _ | .aisleInfo h _ => some h
  | .recoverCrane h _ _ _ | .portRemove h _ _ | .craneInfo h _ | .setCrane h _ => some h
  | .openStation h _ | .closeStation h _ | .releaseBin h _ _ | .fetch h _ _ _ => some h
  | .fetchBatch h _ _ _ _ | .cancelBatch h _ | .setStation h _ _ _ | .stationInfo h _ | .batchInfo h _ => some h
  | .registerBorrower h _ _ | .setBorrower h _ _ _ | .retireBorrower h _ | .setPolicy h _ _ _ => some h
  | .setCalendar h _ _ _ | .setCalendarBase h _ | .setDay h _ | .checkout h _ _ | .renew h _ => some h
  | .returnAtDesk h _ | .earliestDue h _ _ | .listLoans h _ | .borrowerInfo h _ | .loanInfo h _ => some h
  | .calendarInfo h _ _ => some h
  | .placeHold h _ _ | .cancelHold h _ _ | .setRecall h _ _ | .holdInfo h _ _ => some h
  | .trayRemove h _ _ | .trayInfo h => some h
  | .reopenZone h _ | .claimWing h | .yieldWing h | .supervise h _ | .setInterlock h _ _ => some h
  | .zoneInfo h _ | .wingInfo h | .status h | .fetchNotice h | .resetController h => some h
  | .badFrame _ | .unknownRequest _ _ | .frameWhileSlotFull _ | .responseRead _ => none
  | .ready _ | .accepted _ _ | .picked _ _ | .done _ _ _ | .verified _ _ _ | .aborted _ _ _ _ => none
  | .fault _ _ _ _ _ | .parked _ | .rested _ | .acceptTimeout _ | .readyTimeout _ => none
  | .deadlineExpiry _ | .restTimerExpiry _ | .portArrival _ _ | .stationArrival _ _ _ => none
  | .releaseButton _ | .residenceExpiry _ _ | .lampPhase _ | .scan _ => none
  | .zoneLineChange _ _ _ | .zoneInputTaken _ _ | .authorityLineChange _ | .authorityLineTaken => none
  | .parkTimeout _ | .shutterTimeout _ | .shutterClosed _ | .shutterOpened _ | .supervisionExpiry => none
  | .powerOnReset _ | .turnoverExamination | .mountDone | .recordFault | .tick => none

/-- The requests served after a record fault: STATUS, FETCH_NOTICE and RESET_CONTROLLER (R200). -/
def Instr.alwaysServed : Instr → Bool
  | .status _ | .fetchNotice _ | .resetController _ => true
  | _ => false

/-- The commands that move bins and give cranes work. -/
def Instr.movesBins : Instr → Bool
  | .moveBin _ _ _ _ | .startAisle _ _ | .cancelJob _ _ | .auditAisle _ _ | .recoverCrane _ _ _ _ => true
  | .portRemove _ _ _ | .openStation _ _ | .closeStation _ _ | .releaseBin _ _ _ | .fetch _ _ _ _ => true
  | .fetchBatch _ _ _ _ _ | .cancelBatch _ _ => true
  | .ready _ | .accepted _ _ | .picked _ _ | .done _ _ _ | .verified _ _ _ | .aborted _ _ _ _ => true
  | .fault _ _ _ _ _ | .parked _ | .rested _ | .acceptTimeout _ | .readyTimeout _ => true
  | .deadlineExpiry _ | .restTimerExpiry _ | .releaseButton _ | .residenceExpiry _ _ | .lampPhase _ => true
  | _ => false

/-- The commands of the lending desk that touch no bin. -/
def Instr.lendsOnly : Instr → Bool
  | .registerBorrower _ _ _ | .setBorrower _ _ _ _ | .retireBorrower _ _ | .setPolicy _ _ _ _ => true
  | .setCalendar _ _ _ _ | .setCalendarBase _ _ | .setDay _ _ | .renew _ _ | .returnAtDesk _ _ => true
  | .earliestDue _ _ _ | .listLoans _ _ | .borrowerInfo _ _ | .loanInfo _ _ | .calendarInfo _ _ _ => true
  | .setRecall _ _ _ | .holdInfo _ _ _ => true
  | _ => false

end Sys2Proof

namespace Sys2Proof.Machine

/-! ### Requests -/

/-- A request reaches its own table of refusals: the response slot is empty, the frame passed the framing
tests, the field list has its length, and mount has completed (R192, R193, R196, R200). -/
structure Served (h : Hdr) (s : State) : Prop where
  slotEmpty : s.svp.resp = none
  tagged : h.tag ≠ 0
  whole : h.lengthOk = true
  mounted : s.svp.mountState = .mounted

/-- The answer to a request, and nothing else: the state with a response in the slot. -/
def State.answer (s : State) (h : Hdr) (code : ResultCode) (clamped : Bool) (fields : List Field) : State :=
  { s with svp.resp := some { tag := h.tag, code := code, clamped := clamped, fields := fields } }

/-- Some commands one after another, each of which answers a next state, lead from a state to another. -/
def Runs : List Instr → State → State → Prop
  | [], s, t => s = t
  | c :: rest, s, t => ∃ u, exec c s = .next u ∧ Runs rest u t

/-! ### What waits -/

/-- No claim, page or fill list entry names a bin, and the RIU waits for no qualifying bin: nothing follows
from the bin's coming to rest or being presented. -/
structure State.Quiet (s : State) (b : Nat) : Prop where
  unclaimed : s.oldestClaim b = none
  unpaged : ∀ g ∈ s.circ.pages, g.bin ≠ b
  unfilled : s.fillOf b = none
  noQualifier : s.riu.noQualifier = false

/-- Nothing waits for a freed place: no claims, deferred putaways, batches, pages, fill list entries or
audit. -/
structure State.NothingWaits (s : State) : Prop where
  claims : s.clu.claims = []
  deferred : ∀ a, (s.queue a).deferred = []
  batches : s.stu.batches = []
  pages : s.circ.pages = []
  fills : s.riu.fills = []
  noQualifier : s.riu.noQualifier = false
  audit : s.dsp.audit = none

/-- A job is out of its aisle: it has none (R50), or its crane has brought the bin out (R59, R88), so that neither the
aisle's queue nor its crane names it any more. -/
def State.OutOfAisle (s : State) (j : Nat) (r : Job) : Prop :=
  ∀ a, r.aisle = some a → j ∉ (s.queue a).jobs ∧ (s.queue a).putback ≠ some j ∧
    (∀ o, (s.crane a).order = some o → o.job ≠ some j) ∧ (s.crane a).selected ≠ some j ∧
    (s.crane a).resume ≠ some j

/-- No crane can be selected for: none is IDLE or RESTING (R74). -/
def State.NoneAvailable (s : State) : Prop := ∀ a, (s.crane a).available = false

/-- A station is DRAINING, or was when it entered FIRE_HOLD (R104). -/
def Station.isDraining (r : Station) : Bool :=
  match r.state with
  | .normal .draining | .fireHold .draining => true
  | _ => false

/-! ### Orders -/

/-- The orders that R76 withholds from a crane: RETRIEVE, STORE, SHIFT, VERIFY and WAKE. -/
def LinkOrder.moves : LinkOrder → Bool
  | .retrieve _ _ _ _ | .store _ _ _ _ | .shift _ _ _ _ | .verify _ _ | .wake => true
  | .abort _ | .park | .rest | .clear => false

/-- What was sent after some outputs sends no moving order on an aisle link but under the conditions of R76,
as they stood before or stand after. -/
def State.OrdersAllowed (s t : State) : Prop :=
  ∃ new, t.outputs = s.outputs ++ new ∧
    ∀ a o, Output.order a o ∈ new → o.moves = true → s.canOrder a = true ∨ t.canOrder a = true

/-! ### Forms and limits -/

/-- Every numbered table lists its numbers strictly rising, so that equal record memories are equal data. -/
structure State.Form (s : State) : Prop where
  slots : Tab.wf s.rsc.slots
  bins : Tab.wf s.rsc.bins
  items : Tab.wf s.rsc.items
  borrowers : Tab.wf s.rsc.borrowers
  loans : Tab.wf s.rsc.loans
  holds : Tab.wf s.rsc.holds
  jobs : Tab.wf s.dsp.jobs
  fireJobs : Tab.wf s.clu.fireJobs
  batches : Tab.wf s.stu.batches

/-- The limits that the manual gives the part's queues and lists: 64 notices, with OVERRUN only over a queue
that holds one (R195); 32 claims (R45); 24 items on the tray (R167); 32 station and 32 port events kept during
mount (R101, R104); job records of the numbers 0 to 127 (R56) and batch records of the numbers 0 to 7 (R118); 32
places of an aisle's queue, a PUTBACK that waits outside it counted (R58, R60, R62); 4 bins of a lane (R108); and 2
bins of a port inbound buffer (R81). -/
structure State.Bounded (s : State) : Prop where
  notices : s.svp.notices.length ≤ 64
  overrun : s.svp.overrun = true → s.svp.notices ≠ []
  claims : s.clu.claims.length ≤ 32
  tray : s.rsc.tray.length ≤ 24
  keptStation : s.svp.keptStation.length ≤ 32
  keptPort : s.svp.keptPort.length ≤ 32
  jobs : ∀ e ∈ s.dsp.jobs, e.1 < 128
  batches : ∀ e ∈ s.stu.batches, e.1 < 8
  queues : ∀ a, (s.queue a).used ≤ 32
  lanes : ∀ t, (s.station t).lane.length ≤ 4
  buffers : ∀ a, (s.crane a).buffer.length ≤ 2

/-! ### Records that agree -/

/-- The rack map and the bins agree (R2, R3): a bin's state names a slot, as STORED in it or as holding its
reservation, exactly when the slot is OCCUPIED by it or RESERVED for it. -/
def State.RackAgrees (s : State) : Prop :=
  ∀ b x q, (s.bin b).state.slotFor b = some (x, q) ↔ (s.slot x).state = q ∧ q.bin? = some b

/-- Owners and jobs agree (R41, R53): the job that owns a bin, and the job that is recorded against a FIRE-owned
bin, are jobs in use that name the bin. -/
structure State.OwnersAgree (s : State) : Prop where
  owner : ∀ b j, (s.bin b).owner = .job j → ∃ r, s.job j = some r ∧ r.bin = b
  recorded : ∀ e ∈ s.clu.fireJobs, ∃ r, s.job e.2 = some r ∧ r.bin = e.1

/-- The items and the tray agree: an item is IN_TRAY exactly when the tray names it (R167). -/
def State.TrayAgrees (s : State) : Prop :=
  ∀ acc, acc ∈ s.rsc.tray ↔ ∃ it, s.item acc = some it ∧ it.state = .inTray

/-- The holds and the items agree (R149, R150): every hold stands in the queue of the item that it names, once;
every hold of a queue names its item; an item is HOLD_SHELF exactly when its first hold is READY, and a hold behind
the first is WAITING. -/
structure State.HoldsAgree (s : State) : Prop where
  listed : ∀ n r, s.hold n = some r → ∃ it, s.item r.item = some it ∧ n ∈ it.queue
  named : ∀ acc it, s.item acc = some it →
    it.queue.Nodup ∧ ∀ n ∈ it.queue, ∃ r, s.hold n = some r ∧ r.item = acc
  shelf : ∀ acc it, s.item acc = some it →
    ((∃ d, it.state = .holdShelf d) ↔ ∃ n r, it.queue.head? = some n ∧ s.hold n = some r ∧ r.isReady = true)
  behind : ∀ acc it, s.item acc = some it → ∀ n ∈ it.queue.tail, ∀ r, s.hold n = some r → r.state = .waiting

/-- The sum of a weight over the records of a table. -/
def Tab.total {α : Type} (f : α → Nat) (t : Tab α) : Nat := (t.map (fun e => f e.2)).sum

/-- What an item fills of a compartment of a bin: its thickness when it is SHELVED there (R27). -/
def Item.fillOf (b : Nat) (k : Fin 8) (it : Item) : Nat :=
  if it.state.shelvedIn = some (b, k) then it.thickness else 0

/-- An item counts for a bin when it is SHELVED there (R27). -/
def Item.countOf (b : Nat) (it : Item) : Nat := if it.state.shelvedIn.map Prod.fst = some b then 1 else 0

/-- The bins and the items agree (R27, R38): a compartment's fill is the sum of the thicknesses of the items
SHELVED there, and at most 40; a bin's item count is the number of items SHELVED in it; and no item is SHELVED in an
UNUSED bin. -/
structure State.FillsAgree (s : State) : Prop where
  within : ∀ b (k : Fin 8), (s.bin b).fills[k] ≤ 40
  fills : ∀ b (k : Fin 8), (s.bin b).fills[k] = Tab.total (Item.fillOf b k) s.rsc.items
  count : ∀ b, (s.bin b).count = Tab.total (Item.countOf b) s.rsc.items
  used : ∀ acc it b k, s.item acc = some it → it.state.shelvedIn = some (b, k) → (s.bin b).state ≠ .unused

/-! ### What movement leaves alone -/

/-- The records that the movement of bins does not change: borrowers, loans, holds, the policy, the calendar and
the day, the aisle marks and the settings; the mount state, the tick count, the kept events and the queue of
commands. -/
structure State.SameLending (s t : State) : Prop where
  pending : t.pending = s.pending
  borrowers : t.rsc.borrowers = s.rsc.borrowers
  loans : t.rsc.loans = s.rsc.loans
  holds : t.rsc.holds = s.rsc.holds
  policy : t.rsc.policy = s.rsc.policy
  calBase : t.rsc.calBase = s.rsc.calBase
  closedDays : t.rsc.closedDays = s.rsc.closedDays
  today : t.rsc.today = s.rsc.today
  inService : t.rsc.inService = s.rsc.inService
  settings : t.rsc.settings = s.rsc.settings
  formatOk : t.rsc.formatOk = s.rsc.formatOk
  mountState : t.svp.mountState = s.svp.mountState
  tick : t.svp.tick = s.svp.tick
  keptStation : t.svp.keptStation = s.svp.keptStation
  keptPort : t.svp.keptPort = s.svp.keptPort

/-- The inputs of the interlock and what only they and the requests of chapter 10 change: the lines of every zone
and the building line, with their filters (R176); every latch and pending reopening (R175); the claims, the epoch, the
lapse and the supervision timer (R186, R188). -/
structure State.SameInputs (s t : State) : Prop where
  lines : ∀ z, (t.zone z).lines = (s.zone z).lines
  latch : ∀ z, (t.zone z).latch = (s.zone z).latch
  reopenPending : ∀ z, (t.zone z).reopenPending = (s.zone z).reopenPending
  building : t.fiu.building = s.fiu.building
  libraryClaim : t.fiu.libraryClaim = s.fiu.libraryClaim
  buildingClaim : t.fiu.buildingClaim = s.fiu.buildingClaim
  epoch : t.fiu.epoch = s.fiu.epoch
  lapsed : t.fiu.lapsed = s.fiu.lapsed
  supTimer : t.fiu.supTimer = s.fiu.supTimer

/-- The records of movement: the rack map, the bins, jobs, queues and cranes, stations and batches, claims,
pages and fills, the tray, the interlock, and what was sent. -/
structure State.SameMovement (s t : State) : Prop where
  pending : t.pending = s.pending
  outputs : t.outputs = s.outputs
  slots : t.rsc.slots = s.rsc.slots
  bins : t.rsc.bins = s.rsc.bins
  tray : t.rsc.tray = s.rsc.tray
  clu : t.clu = s.clu
  dsp : t.dsp = s.dsp
  cranes : t.cranes = s.cranes
  stu : t.stu = s.stu
  pages : t.circ.pages = s.circ.pages
  delivered : t.circ.delivered = s.circ.delivered
  riu : t.riu = s.riu
  fiu : t.fiu = s.fiu

end Sys2Proof.Machine
end

