-- ==== Sys2Proof/Certificates/Slice0/Obligations.lean ====
section
/-! DEFINITION. The statements for the provers. Each docstring names the rules of the manual it rests on; a
clause that rests on a choice of the model names the log entry. -/

open Sys2Proof Sys2Proof.Machine

/-! ### The queue of commands and the Service Port (chapter 11) -/

/-- The step takes the command at the front of the queue and is its meaning with the queue's rest; with an
empty queue the part idles (the model's choice, log 1). -/
def Obligations.StepRunsTheFrontCommand : Prop :=
  (∀ (s : State) (c : Instr) (rest : List Instr), s.pending = c :: rest →
    step s = exec c { s with pending := rest }) ∧
  (∀ s : State, s.pending = [] → step s = .next s)

/-- A request frame that arrives while the response slot is full is discarded unserved: nothing changes
(R193); the same of raw frames, valid or corrupt, and of requests of an unknown code. -/
def Obligations.FullSlotDiscardsFrames : Prop :=
  (∀ (c : Instr) (h : Hdr) (s : State), c.header = some h → s.svp.resp.isSome = true → exec c s = .next s) ∧
  (∀ (f : List Byte) (tag code : Byte) (s : State), s.svp.resp.isSome = true →
    exec (.frameWhileSlotFull f) s = .next s ∧ exec (.badFrame f) s = .next s ∧
    exec (.unknownRequest tag code) s = .next s)

/-- During mount every request but STATUS is refused with MOUNTING, and after a record fault every request
but STATUS, FETCH_NOTICE and RESET_CONTROLLER with RECORD_FAULT, whatever its operands: nothing but the answer
(R196, R200). That the mount state is tested before the length of the field list, so that a request with a wrong
length meets it too, is the model's reading (log 13). -/
def Obligations.MountStateRefusesRequests : Prop :=
  ∀ (c : Instr) (h : Hdr) (s : State), c.header = some h → s.svp.resp = none → h.tag ≠ 0 →
    (s.svp.mountState = .mounting → c ≠ .status h →
      exec c s = .next (s.answer h .mounting false [])) ∧
    (s.svp.mountState = .recordFault → c.alwaysServed = false →
      exec c s = .next (s.answer h .recordFault false []))

/-- Frames that reach no request, with the slot empty (R192): one that fails a framing test is answered
BAD_FRAME with tag 0, and a well-framed request of an unknown code UNKNOWN_REQUEST with its own tag. A raw frame
that passes every test names a request by a code that the manual does not list, and the model refuses it by name
(log 2). -/
def Obligations.FramesThatReachNoRequest : Prop :=
  ∀ s : State, s.svp.resp = none →
    (∀ f, frameOk f = false →
      exec (.badFrame f) s = .next (s.answer ⟨0, true⟩ .badFrame false []) ∧
      exec (.frameWhileSlotFull f) s = .next (s.answer ⟨0, true⟩ .badFrame false [])) ∧
    (∀ tag code : Byte, tag ≠ 0 →
      exec (.unknownRequest tag code) s = .next (s.answer ⟨tag, true⟩ .unknownRequest false [])) ∧
    (∀ f, frameOk f = true →
      exec (.badFrame f) s = .refused .requestCodeUnlisted ∧
      exec (.frameWhileSlotFull f) s = .refused .requestCodeUnlisted)

/-- A read of the response slot (R193): an empty slot gives A5h, 00h; a full one gives the response frame, and
is emptied when the read completes; a read that ends earlier leaves the response. That a read clocked past the last
byte has no further bytes is the model's choice (log 54). -/
def Obligations.ResponseReadEmptiesTheSlot : Prop :=
  ∀ (n : Nat) (s : State),
    (s.svp.resp = none →
      exec (.responseRead n) s = .next { s with outputs := s.outputs ++ [.read (([0xA5, 0x00] : List Byte).take n)] }) ∧
    (∀ r, s.svp.resp = some r → r.frame.length ≤ n →
      exec (.responseRead n) s =
        .next { s with outputs := s.outputs ++ [.read (r.frame.take n)], svp.resp := none }) ∧
    (∀ r, s.svp.resp = some r → n < r.frame.length →
      exec (.responseRead n) s = .next { s with outputs := s.outputs ++ [.read (r.frame.take n)] })

/-- STATUS is served in every mount state with the status word and the tick, and changes nothing (R194). -/
def Obligations.StatusReportsTheWord : Prop :=
  ∀ (h : Hdr) (s : State), s.svp.resp = none → h.tag ≠ 0 → h.lengthOk = true →
    exec (.status h) s = .next (s.answer h .done false [.num 4 s.statusWord, .num 4 s.svp.tick.toNat]) ∧
    s.statusWord % 4 = s.svp.mountState.code ∧
    s.statusWord / 4 % 4 = longOpCode s.svp.longOp ∧
    s.statusWord / 16 % 4 = s.authority.code ∧
    s.statusWord / 64 % 2 = bit s.fiu.lapsed ∧
    s.statusWord / 128 % 2 = bit (s.svp.notices ≠ []) ∧
    s.statusWord / 256 % 2 = bit s.svp.overrun ∧
    (∀ z : ZoneNo, s.statusWord / 2 ^ (9 + 3 * z.val) % 8 = (s.zone z).state.code) ∧
    (∀ a : Aisle, s.statusWord / 2 ^ (24 + a.val) % 2 = bit ((s.queue a).state = .running)) ∧
    s.statusWord < 268435456

/-- FETCH_NOTICE removes the oldest notice and answers with it and the count left; OVERRUN goes with the last
notice; an empty queue answers kind 0 and count 0 (R195). A notice posted joins the tail, or is dropped and
sets OVERRUN. -/
def Obligations.NoticesAreFirstInFirstOut : Prop :=
  (∀ (h : Hdr) (s : State), s.svp.resp = none → h.tag ≠ 0 → h.lengthOk = true → s.svp.mountState ≠ .mounting →
    (∀ n rest, s.svp.notices = n :: rest →
      exec (.fetchNotice h) s =
        .next (State.answer { s with svp.notices := rest, svp.overrun := s.svp.overrun && !rest.isEmpty } h .done
          false [.num 1 n.kind.code, .num 4 n.arg1, .num 4 n.arg2, .num 4 n.arg3, .num 1 rest.length])) ∧
    (s.svp.notices = [] →
      exec (.fetchNotice h) s =
        .next (s.answer h .done false [.num 1 0, .num 4 0, .num 4 0, .num 4 0, .num 1 0]))) ∧
  (∀ (s : State) k x y z,
    (s.svp.notices.length < 64 → s.post k x y z = { s with svp.notices := s.svp.notices ++ [⟨k, x, y, z⟩] }) ∧
    (64 ≤ s.svp.notices.length → s.post k x y z = { s with svp.overrun := true }))

/-- RESET_CONTROLLER (R197): record memory, the tick, the kept events and every line, zone and the epoch stay, but
that no slot is held for a job (R1) and no bin has an owner (R41); the library claim, the lapse and the supervision
timer are cleared; the volatile state is empty; every crane is DOWN and sent CLEAR, the four in rising order of
aisle by the model's choice (log 8); mount runs; the DONE stands in the slot. -/
def Obligations.ControllerResetKeepsTheRecords : Prop :=
  ∀ (h : Hdr) (s : State), s.svp.resp = none → h.tag ≠ 0 → h.lengthOk = true → s.svp.mountState ≠ .mounting →
    ∃ t, exec (.resetController h) s = .next t ∧
      t.svp.resp = some { tag := h.tag, code := .done, clamped := false, fields := [] } ∧
      t.rsc = { s.rsc with slots := t.rsc.slots, bins := t.rsc.bins } ∧
      (∀ b, t.bin b = { s.bin b with owner := .none }) ∧
      (Tab.wf s.rsc.slots → ∀ x, t.slot x = { s.slot x with held := none }) ∧
      t.svp.tick = s.svp.tick ∧ t.svp.keptStation = s.svp.keptStation ∧ t.svp.keptPort = s.svp.keptPort ∧
      t.pending = s.pending ∧
      t.fiu = { s.fiu with libraryClaim := false, lapsed := false, supTimer := none } ∧
      t.svp.mountState = .mounting ∧ t.svp.longOp = some .mount ∧ t.svp.overrun = false ∧
      t.svp.notices = (if t.authority = s.authority then [] else [⟨.authority, t.authority.code, 0, 0⟩]) ∧
      t.clu = { claims := [], fireJobs := [] } ∧ t.dsp.jobs = [] ∧ t.dsp.audit = none ∧ t.dsp.lastJob = 127 ∧
      (∀ a, t.queue a = { jobs := [], state := if s.latched a then .stopped else .running,
                          reason := if s.latched a then some .latch else none, putback := none,
                          deferred := [] }) ∧
      (∀ a, t.crane a = Crane.reset s.svp.tick) ∧
      t.stu = { stations := Vector.replicate 6 Station.reset, batches := [], batchSeq := 0 } ∧
      t.circ = { turnover := none, listing := none, pages := [], delivered := [] } ∧
      t.riu = { fills := [], noQualifier := false } ∧
      t.outputs = s.outputs ++ [.order 0 .clear, .order 1 .clear, .order 2 .clear, .order 3 .clear]

/-- Power-on reset (R190, R198): record memory stays, but that no slot is held for a job (R1) and no bin has an
owner (R41); the response slot, the kept events, the job records, the queues and the claims are empty; each zone is
SECURED when one of its input lines is active and STANDBY otherwise, with the levels found taken as the filtered
levels; the building claim follows the lines; no claim, epoch 0; no notice; mount runs. -/
def Obligations.PowerOnResetTakesItsLines : Prop :=
  ∀ (f : LinesFound) (s : State), ∃ t, exec (.powerOnReset f) s = .next t ∧
    t.rsc = { s.rsc with slots := t.rsc.slots, bins := t.rsc.bins } ∧
    (∀ b, t.bin b = { s.bin b with owner := .none }) ∧
    (Tab.wf s.rsc.slots → ∀ x, t.slot x = { s.slot x with held := none }) ∧
    t.pending = s.pending ∧ t.svp.resp = none ∧ t.svp.notices = [] ∧ t.svp.overrun = false ∧
    t.svp.keptStation = [] ∧ t.svp.keptPort = [] ∧ t.svp.mountState = .mounting ∧
    t.svp.longOp = some .mount ∧
    (∀ a, t.queue a = Queue.reset) ∧ t.dsp.jobs = [] ∧ t.clu = { claims := [], fireJobs := [] } ∧
    (∀ z : ZoneNo,
      let l := f.zones[z]
      let r := t.zone z
      r.state = (if l.alarm || l.fault || l.pre || l.dis then .secured else .standby) ∧
      r.lines.alarm.filtered = l.alarm ∧ r.lines.fault.filtered = l.fault ∧ r.lines.pre.filtered = l.pre ∧
      r.lines.dis.filtered = l.dis ∧ r.lines.rearm.filtered = l.rearm ∧ r.latch = false ∧
      r.reopenPending = false ∧ r.shutterCmd = .close) ∧
    (∀ a : Aisle, (t.zone a.zone).confirmed = f.closed[a]) ∧
    t.fiu.libraryClaim = false ∧ t.fiu.epoch = 0 ∧ t.fiu.lapsed = false ∧ t.fiu.supTimer = none ∧
    t.fiu.buildingClaim = (f.building || f.zones.any (fun l => l.pre || l.dis))

/-- MOUNT_DONE over a record memory that was never initialised (R199): the tables are written with their initial
values, MOUNT_DONE is posted with its initialised mark, and the part is MOUNTED; stations are held while Z4 is not
NORMAL. Over a valid one the records are repaired: bins and slots (R22), loans and their recalls (R147, R148), items
(R39): a SHELVED item keeps its place exactly when its bin is in use and the kept items before it leave room (R40); the
tray keeps its entries and takes the items it does not name while it has room (R40); loan and hold counts (R148). Holds
(R162): the holds of the queue that name the item and a known borrower keep their order, those it does not name follow
by placed day and number; of these a hold stays in its place, unless an earlier one has the same borrower, eight
borrowers stand before it, or its borrower has the item on loan; READY stays only the first hold of a HOLD_SHELF item.
That a hold which the queue references twice keeps its first place and its record is the model's choice (log 59), and
so is a second tray entry of one item that stays (log 60). Each SHELVED item with a WAITING first hold has a page, and
the only new jobs are page fetches, which R56 leaves to the CLU once mount has ended (R42, R153, R162; log 51). The
part is MOUNTED, and then the kept station events and the kept port arrivals are taken in order as if they arrived then
(R101, R104; their ticks: log 39). A record fault during mount (R200) stops mount: RECORD_FAULT is posted and the
long-operation slot frees. At any other time neither says anything (log 6). A tick advances the tick count by 1, modulo
2^32 (00_scope, "Time"). -/
def Obligations.MountEndsOrFails : Prop :=
  (∀ s : State, s.svp.mountState = .mounting → s.rsc.formatOk = false → s.svp.keptStation = [] →
    s.svp.keptPort = [] → s.svp.notices.length < 64 → (s.station fillStation).isOpen = false →
    ∃ t, exec .mountDone s = .next t ∧ t.rsc = Rsc.initial true ∧ t.svp.mountState = .mounted ∧
      t.svp.longOp = none ∧ t.svp.notices = s.svp.notices ++ [⟨.mountDone, 0, 0, 1⟩] ∧
      t.dsp = s.dsp ∧ t.cranes = s.cranes ∧ t.clu = s.clu ∧ t.fiu = s.fiu ∧ t.outputs = s.outputs ∧
      (∀ u, (t.station u).state =
        if s.frontNormal then (s.station u).state
        else match (s.station u).state with
          | .normal o => .fireHold o
          | .fireHold o => .fireHold o)) ∧
  (∀ s : State, s.svp.mountState = .mounting → s.rsc.formatOk = true → s.Form → s.NoneAvailable →
    s.frontNormal = true → s.svp.notices.length < 64 →
    ∃ u t, exec .mountDone s = .next t ∧
      Runs (s.svp.keptStation.map (fun e => .stationArrival e.station e.pos e.bin) ++
        s.svp.keptPort.map (fun e => .portArrival e.aisle e.bin)) u t ∧
      u.svp.mountState = .mounted ∧ u.svp.longOp = none ∧ u.svp.keptStation = [] ∧ u.svp.keptPort = [] ∧
      (s.rsc.holds = [] →
        u.svp.notices = s.svp.notices ++ [⟨.mountDone, madeUncertain s u, madeMissing s u, 0⟩]) ∧
      u.cranes = s.cranes ∧ u.stu = s.stu ∧ u.fiu = s.fiu ∧ u.outputs = s.outputs ∧
      (∀ b, (u.bin b).state = match (s.bin b).state with
        | .unused => .unused
        | .stored x => if (s.slot x).state = .occupied b then .stored x else .uncertain
        | _ => .uncertain) ∧
      (∀ x, u.slot x = { s.slot x with
        held := none
        state := match (s.slot x).state with
          | .occupied b => if (s.bin b).state = .stored x then .occupied b else .free
          | _ => .free }) ∧
      (s.rsc.holds = [] → ∀ b, (u.bin b).owner = .none) ∧
      (∀ b, (u.bin b).state ≠ .unused → (u.bin b).count = (u.itemsIn b).length ∧
        ∀ k : Fin 8, (u.bin b).fills[k] ≤ 40 ∧ (u.bin b).fills[k] =
          (((u.itemsIn b).filter (fun e => e.2.2 = k)).map (fun e => e.2.1.thickness)).sum) ∧
      (let known : Loan → Prop := fun r => s.item r.item ≠ none ∧ s.borrower r.borrower ≠ none;
        (∀ n, s.loan n = none → u.loan n = none) ∧
        (∀ n r, s.loan n = some r →
          (u.loan n ≠ none ↔ known r ∧ ∀ m q, s.loan m = some q → known q → q.item = r.item →
            q.checkout < r.checkout ∨ (q.checkout = r.checkout ∧ m ≤ n)) ∧
          (∀ q it w, u.loan n = some q → s.item r.item = some it → s.borrower r.borrower = some w →
            q.item = r.item ∧ q.borrower = r.borrower ∧ q.checkout = r.checkout ∧ q.renewals = r.renewals ∧
            (let due := if r.due ≤ r.checkout then s.dueDay r.checkout w.cls it.cls else r.due
              ∀ i, u.item r.item = some i → q.recalled = (r.recalled || u.hasWaiting i) ∧
                q.due = if r.recalled = false ∧ u.hasWaiting i = true
                  then s.recallDay s.rsc.today { r with due := due } else due)))) ∧
      (∀ acc, s.item acc = none → u.item acc = none) ∧ u.TrayAgrees ∧
      (∀ acc it, s.item acc = some it → ∃ i, u.item acc = some i ∧ i.thickness = it.thickness ∧ i.cls = it.cls ∧
        (∀ n r, u.loan n = some r → r.item = acc → i.state = .onLoan n) ∧
        ((∀ n r, u.loan n = some r → r.item ≠ acc) →
          (∀ n, it.state = .onLoan n → i.state = .missing) ∧
          (∀ b k, it.state = .shelved b k →
            i.state = if (s.bin b).state ≠ .unused ∧ it.thickness +
                (((u.itemsIn b).filter (fun e => e.2.2 = k ∧ e.1 < acc)).map (fun e => e.2.1.thickness)).sum ≤ 40
              then it.state else .missing) ∧
          (∀ d, it.state = .atDesk d → i.state = .atDesk d) ∧ (it.state = .missing → i.state = .missing) ∧
          (∀ d, it.state = .holdShelf d →
            i.state = if (u.firstHold i).any (fun e => e.2.isReady) then .holdShelf d else .atDesk d) ∧
          (it.state = .inTray → i.state = .inTray ∨ i.state = .atDesk serviceStation))) ∧
      (∀ k w, s.borrower k = some w → u.borrower k = some { w with
        loans := (u.rsc.loans.filter (fun e => e.2.borrower = k)).length
        holds := (u.rsc.holds.filter (fun e => e.2.borrower = k)).length }) ∧
      (∀ n r, u.hold n = some r → u.borrower r.borrower ≠ none ∧ ∃ i, u.item r.item = some i ∧ n ∈ i.queue ∧
        (∀ e, r.state = .ready e → i.queue.head? = some n ∧ ∃ d, i.state = .holdShelf d)) ∧
      (∀ acc i, u.item acc = some i → i.queue.length ≤ 8 ∧
        ∀ n ∈ i.queue, ∃ r, u.hold n = some r ∧ r.item = acc) ∧
      (let waits : Nat → Bool := fun acc =>
          (s.item acc).any (·.state = .inTray) && !u.rsc.loans.any (·.2.item = acc)
        let kept := s.rsc.tray.filter waits
        u.rsc.tray = kept ++ ((s.rsc.items.map Prod.fst).filter (fun acc => waits acc && !kept.contains acc)).take
          (24 - kept.length)) ∧
      (∀ acc it i tail, s.item acc = some it → u.item acc = some i →
        let names : Nat → Bool := fun n =>
          (s.hold n).any (fun r => r.item = acc && (s.borrower r.borrower).isSome)
        let who : Nat → Option Nat := fun n => (s.hold n).map (·.borrower)
        let line := it.queue.filter names ++ tail
        (∀ n, n ∈ tail ↔ names n = true ∧ n ∉ it.queue) →
        tail.Pairwise (fun m n => ∀ q r, s.hold m = some q → s.hold n = some r →
          q.placed < r.placed ∨ (q.placed = r.placed ∧ m < n)) →
        i.queue.Sublist line ∧ i.queue.Nodup ∧
        (∀ pre n post, line = pre ++ n :: post → n ∉ pre →
          (n ∈ i.queue ↔ (∀ m ∈ pre, who m ≠ who n) ∧ ((pre.map who).dedup).length < 8 ∧
            ∀ k l, u.loan k = some l → l.item = acc → some l.borrower ≠ who n)) ∧
        (∀ n r, n ∈ i.queue → s.hold n = some r →
          let first := i.queue.head? = some n ∧ (∃ d, it.state = .holdShelf d) ∧ ∀ k l, u.loan k = some l → l.item ≠ acc
          (first → u.hold n = some r) ∧ (¬first → u.hold n = some { r with state := .waiting }))) ∧
      (s.rsc.holds = [] → u.dsp = s.dsp ∧ u.clu = s.clu) ∧
      (∀ j r, u.job j = some r → s.job j = some r ∨
        (r.kind = .fetch ∧ r.dest = .station serviceStation ∧ r.priority = 1 ∧ (∃ n, r.origin = .page n) ∧
          (u.bin r.bin).owner = .job j)) ∧
      (s.circ.pages = [] → ∀ acc i b k n r, u.item acc = some i → i.state = .shelved b k →
        u.firstWaiting i = some (n, r) → ∃ g ∈ u.circ.pages, g.hold = n ∧ g.item = acc ∧ g.bin = b)) ∧
  (∀ s : State, s.svp.mountState = .mounting → s.svp.notices.length < 64 →
    exec .recordFault s = .next { s with
      svp.mountState := .recordFault
      svp.longOp := none
      svp.notices := s.svp.notices ++ [⟨.recordFault, 0, 0, 0⟩] }) ∧
  (∀ s : State, s.svp.mountState ≠ .mounting → exec .recordFault s = .next s ∧ exec .mountDone s = .next s) ∧
  (∀ s : State, exec .tick s = .next { s with svp.tick := s.svp.tick + 1 })

/-! ### Bins and slots (chapter 1) -/

/-- ADD_BIN (R15) of a bin that nothing waits for: into a slot, the bin is STORED there with owner NONE and audit
pending set, and the slot OCCUPIED naming it; at an EMPTY position, the bin is PRESENTED there with owner STATION and
its residence timer runs from now, a new stay in which no page has been delivered (R154, log 53). Nothing else changes
but the answer. -/
def Obligations.AddBinPutsTheBinInItsPlace : Prop :=
  ∀ (h : Hdr) (b ht cl : Nat) (s : State) (H : Height) (C : Climate), Served h s → b < 16384 →
    height? ht = some H → climate? cl = some C → (s.bin b).state = .unused → s.Quiet b →
    (∀ raw x, slot? raw = some x → (s.slot x).state = .free → (s.slot x).held = none →
      fits { Bin.unused with height := H, climate := C } (s.slot x) = true →
      exec (.addBin h b ht cl (.slot raw)) s =
        .next (State.answer ((s.setBin b { Bin.unused with
            state := .stored x, height := H, climate := C, audit := true }).setSlot x
          { s.slot x with state := .occupied b }) h .done false [])) ∧
    (∀ st po t p, station? st = some t → pos? po = some p → (s.position t p).content = .empty →
      ¬(C = .controlled ∧ noControlled t = true) → s.stu.batches = [] →
      exec (.addBin h b ht cl (.position st po)) s =
        .next (State.answer (((s.newStay b).setBin b { Bin.unused with
            state := .presented t p, height := H, climate := C, owner := .station t }).setPosition t p
          { content := .bin b, arrival := some s.svp.tick,
            deadline := some (s.svp.tick + BitVec.ofNat 32 (6000 * s.rsc.settings.station.residence[t])),
            attention := false, restart := none, expiredInHold := false }) h .done false []))

/-- RETIRE_BIN (R16) of a PRESENTED, empty, unclaimed bin at a station that is not DRAINING: the position
becomes EMPTY and the record UNUSED; a bin that is not PRESENTED is refused. -/
def Obligations.RetireBinEmptiesThePosition : Prop :=
  (∀ (h : Hdr) (b : Nat) (s : State) (t : StationNo) (p : Pos), Served h s → b < 16384 →
    (s.bin b).state = .presented t p → (s.bin b).count = 0 → s.oldestClaim b = none → t ≠ fillStation →
    s.fillOf b = none → (s.station t).isDraining = false →
    exec (.retireBin h b) s =
      .next (State.answer ((s.setPosition t p Position.empty).setBin b Bin.unused) h .done false [])) ∧
  (∀ (h : Hdr) (b : Nat) (s : State), Served h s → b < 16384 →
    (∀ t p, (s.bin b).state ≠ .presented t p) →
    exec (.retireBin h b) s = .next (s.answer h .notPresented false []))

/-- RESOLVE_BIN at slot and at position of an UNCERTAIN bin that nothing waits for (R17, R18), and of an UNKNOWN
position that is empty: the bin is STORED with audit pending set, or PRESENTED, a new stay in which no page has been
delivered (R154, log 53); the position becomes EMPTY. -/
def Obligations.ResolveBinPlacesTheBin : Prop :=
  (∀ (h : Hdr) (b : Nat) (raw : RawSlot) (s : State) (x : SlotAddr), Served h s → b < 16384 →
    slot? raw = some x → (s.bin b).state = .uncertain → (s.slot x).state = .free → (s.slot x).held = none →
    fits (s.bin b) (s.slot x) = true → s.Quiet b →
    exec (.resolveBin h (.atSlot b raw)) s =
      .next (State.answer ((s.setBin b { s.bin b with state := .stored x, audit := true }).setSlot x
        { s.slot x with state := .occupied b }) h .done false [])) ∧
  (∀ (h : Hdr) (b st po : Nat) (s : State) (t : StationNo) (p : Pos), Served h s → b < 16384 →
    station? st = some t → pos? po = some p → (s.bin b).state = .uncertain →
    (∀ c, (s.position t p).content ≠ .bin c) → ¬((s.bin b).climate = .controlled ∧ noControlled t = true) →
    s.Quiet b → s.stu.batches = [] →
    exec (.resolveBin h (.atPosition st po (some b))) s =
      .next (State.answer (((s.newStay b).setBin b { s.bin b with
        state := .presented t p, owner := .station t }).setPosition t p (s.freshPosition t b false)) h .done false
        [])) ∧
  (∀ (h : Hdr) (st po : Nat) (s : State) (t : StationNo) (p : Pos), Served h s → station? st = some t →
    pos? po = some p → (s.position t p).content = .unknown → t ≠ fillStation →
    (s.station t).isDraining = false →
    exec (.resolveBin h (.atPosition st po none)) s =
      .next (State.answer (s.setPosition t p Position.empty) h .done false []))

/-- RESOLVE_BIN lost of an UNCERTAIN bin (R17): the record becomes UNUSED, every item SHELVED in it becomes
MISSING, every other item stays as it was. -/
def Obligations.ResolveBinLostLosesItsItems : Prop :=
  ∀ (h : Hdr) (b : Nat) (s : State), Served h s → b < 16384 → (s.bin b).state = .uncertain →
    s.oldestClaim b = none → s.circ.pages = [] → Tab.wf s.rsc.items →
    ∃ t, exec (.resolveBin h (.lost b)) s = .next t ∧
      t.svp.resp = some { tag := h.tag, code := .done, clamped := false, fields := [] } ∧
      t.bin b = Bin.unused ∧ (∀ c, c ≠ b → t.bin c = s.bin c) ∧ t.rsc.slots = s.rsc.slots ∧
      (∀ acc it, s.item acc = some it →
        t.item acc = some (if (∃ k, it.state = .shelved b k) then { it with state := .missing } else it)) ∧
      t.dsp = s.dsp ∧ t.clu = s.clu ∧ t.cranes = s.cranes ∧ t.stu = s.stu ∧ t.fiu = s.fiu

/-- SET_SLOT (R5) writes the classes and the blocked mark, unless the climate class of a slot that is not FREE and
unheld would change, or a tall bin stands in it or is bound for it and the height class would become standard; a
change of blocked alone is always accepted. SET_AISLE (R6) marks an aisle, and an aisle marked out of service is
excluded from every wing search (R13). -/
def Obligations.SlotAndAisleMarksAreWritten : Prop :=
  (∀ (h : Hdr) (raw : RawSlot) (ht cl : Nat) (blocked : Bool) (s : State) (x : SlotAddr) (H : Height) (C : Climate),
    Served h s → slot? raw = some x → height? ht = some H → climate? cl = some C →
    exec (.setSlot h raw ht cl blocked) s =
      .next (if (C ≠ (s.slot x).climate ∧ ((s.slot x).state ≠ .free ∨ (s.slot x).held ≠ none)) ∨
          (H = .standard ∧ (s.slot x).height ≠ .standard ∧
            ∃ b, s.slotBin x = some b ∧ (s.bin b).height = .tall)
        then s.answer h .occupied false []
        else State.answer (s.setSlot x { s.slot x with height := H, climate := C, blocked := blocked }) h .done
          false [])) ∧
  (∀ (h : Hdr) (n : Nat) (on : Bool) (s : State), Served h s →
    (∀ a, aisle? n = some a → exec (.setAisle h n on) s =
      .next (State.answer { s with rsc.inService := s.rsc.inService.set a on } h .done false [])) ∧
    (3 < n → exec (.setAisle h n on) s = .next (s.answer h .badArgument false []))) ∧
  (∀ (s : State) (H : Height) (C : Climate) (as : List Aisle) (x : SlotAddr) (n : Nat),
    s.wingSearch H C as = some (x, n) → s.rsc.inService[x.aisle] = true)

/-- SLOT_QUERY (R14) answers the wing search over the given aisles and reserves nothing: NO_SLOT when it finds
none, BAD_ARGUMENT for a class out of range or no aisle. BIN_INFO and SLOT_INFO (R20) answer the whole record and
change nothing. The layout of the fields is the model's (log 9), and so are the classes of an UNUSED record
(log 11). -/
def Obligations.RackLookups : Prop :=
  ∀ (h : Hdr) (s : State), Served h s →
    (∀ ht cl as H C, height? ht = some H → climate? cl = some C → as ≠ 0 →
      (∀ x n, s.wingSearch H C (allAisles.filter (fun a => as.getLsbD a.val)) = some (x, n) →
        exec (.slotQuery h ht cl as) s = .next (s.answer h .done false [.num 4 (slotArg x), .num 2 n])) ∧
      (s.wingSearch H C (allAisles.filter (fun a => as.getLsbD a.val)) = none →
        exec (.slotQuery h ht cl as) s = .next (s.answer h .noSlot false []))) ∧
    (∀ ht cl as, height? ht = none ∨ climate? cl = none ∨ as = 0 →
      exec (.slotQuery h ht cl as) s = .next (s.answer h .badArgument false [])) ∧
    (∀ b, b < 16384 → exec (.binInfo h b) s = .next (s.answer h .done false
      ((s.bin b).state.fields ++ classFields b (s.bin b) ++ (s.bin b).owner.fields ++
        [flagField (s.bin b).audit] ++ (s.bin b).fills.toList.map u8 ++
        [u16 (s.bin b).count, u8 (s.claimsOn b).length]))) ∧
    (∀ raw x, slot? raw = some x → exec (.slotInfo h raw) s = .next (s.answer h .done false
      ([slotField x] ++ (s.slot x).state.fields ++
        [u8 (s.slot x).height.code, u8 (s.slot x).climate.code, flagField (s.slot x).blocked,
         optField 1 (s.slot x).held]))) ∧
    (∀ b, 16384 ≤ b → exec (.binInfo h b) s = .next (s.answer h .badArgument false [])) ∧
    (∀ raw, slot? raw = none → exec (.slotInfo h raw) s = .next (s.answer h .badArgument false []))

/-- The aisle search (R11, R12, R13) finds a slot exactly when a slot of the aisle is FREE, unheld, unblocked, of the
climate class and of the height class, or, for a standard bin, tall. It finds one of the height class, or a tall one for
a standard bin when the aisle has no standard candidate; and of the candidates of its height the cheapest, then the one
of lower level, lower column, and side L before R. The cost is the travel from the port (R12). The wing search (R13)
finds the best slot of an aisle of its list whose zone is NORMAL, whose latch is clear and which is in service; of these
aisles the one of lowest cost, then of fewer jobs in the queue, then of the lower number; it finds none only when no
such aisle has one. -/
def Obligations.AisleSearchFindsTheCheapest : Prop :=
  (∀ (s : State) (H : Height) (C : Climate) (a : Aisle),
    let opens : SlotAddr → Prop := fun y => y.aisle = a ∧ (s.slot y).state = .free ∧ (s.slot y).held = none ∧
      (s.slot y).blocked = false ∧ (s.slot y).climate = C
    (∀ y, opens y → (s.slot y).height = H ∨ (H = .standard ∧ (s.slot y).height = .tall) →
      s.aisleSearch H C a ≠ none) ∧
    (∀ x, s.aisleSearch H C a = some x → opens x ∧
      ((s.slot x).height = H ∨
        (H = .standard ∧ (s.slot x).height = .tall ∧ ∀ y, opens y → (s.slot y).height = .tall)) ∧
      ∀ y, opens y → (s.slot y).height = (s.slot x).height →
        s.slotCost x < s.slotCost y ∨ (s.slotCost x = s.slotCost y ∧
          (x.level < y.level ∨ (x.level = y.level ∧
            (x.column < y.column ∨ (x.column = y.column ∧ (x.side = .left ∨ y.side = .right)))))))) ∧
  (∀ (s : State) (x : SlotAddr),
    let d := s.rsc.settings.dispatch
    let th := if x.column.val = 0 then 0 else d.ah + d.bh * x.column.val
    let tv := if x.level.val = 0 then 0 else d.av + d.bv * x.level.val
    s.slotCost x = min (max th tv) 1023) ∧
  (∀ (s : State) (H : Height) (C : Climate) (as : List Aisle), as.Pairwise (· < ·) →
    let able : Aisle → Prop := fun a =>
      a ∈ as ∧ (s.zone a.zone).state = .normal ∧ (s.zone a.zone).latch = false ∧ s.rsc.inService[a] = true
    (s.wingSearch H C as = none → ∀ a, able a → s.aisleSearch H C a = none) ∧
    (∀ x n, s.wingSearch H C as = some (x, n) →
      able x.aisle ∧ s.aisleSearch H C x.aisle = some x ∧ n = s.slotCost x ∧
      ∀ a y, able a → s.aisleSearch H C a = some y →
        s.slotCost x < s.slotCost y ∨ (s.slotCost x = s.slotCost y ∧
          ((s.queue x.aisle).jobs.length < (s.queue a).jobs.length ∨
            ((s.queue x.aisle).jobs.length = (s.queue a).jobs.length ∧ x.aisle ≤ a)))))

/-- MOVE_BIN (R19) of a STORED, unowned, unclaimed bin to a slot of its aisle: a SHIFT job takes a record and a
place at the tail of the queue, owns the bin, and the slot is held for it; without a destination the aisle
search gives the slot. That the DONE of a clamped priority carries no CLAMPED indication is the model's choice
(log 40). -/
def Obligations.MoveBinCreatesItsShift : Prop :=
  ∀ (h : Hdr) (b prio j : Nat) (dest : Option RawSlot) (s : State) (x y : SlotAddr), Served h s → b < 16384 →
    s.authority = .library → (s.bin b).state = .stored x → (s.bin b).owner = .none → s.oldestClaim b = none →
    ((∃ raw, dest = some raw ∧ slot? raw = some y ∧ s.destRefusal b x y = none) ∨
      (dest = none ∧ s.aisleSearch (s.bin b).height (s.bin b).climate x.aisle = some y)) →
    s.freeJob = some j → (s.queue x.aisle).used < 32 → (s.crane x.aisle).available = false →
    exec (.moveBin h b prio dest) s =
      .next (State.answer
        ((((s.takeRecord j
            { kind := .shift, aisle := some x.aisle, bin := b, source := .slot x, dest := .slot y,
              priority := min prio 3, enqueued := s.svp.tick, origin := .single, active := false }).setOwner b
          (.job j)).enqueue x.aisle j).setHeld y (some j)) h .done false [.num 1 j, .num 4 (slotArg y)])

/-! ### Items (chapter 2) -/

/-- ADD_ITEM (R29): the refusals in their order, and otherwise an item record AT_DESK with an empty queue. -/
def Obligations.AddItemAnswersByItsTable : Prop :=
  ∀ (h : Hdr) (cs : List Byte) (check : BitVec 16) (th cl st : Nat) (s : State), Served h s →
    (th < 1 ∨ 40 < th ∨ 3 < cl ∨ 5 < st →
      exec (.addItem h cs check th cl st) s = .next (s.answer h .badArgument false [])) ∧
    (∀ k t, 1 ≤ th → th ≤ 40 → itemClass? cl = some k → station? st = some t →
      (label? cs check = none → exec (.addItem h cs check th cl st) s = .next (s.answer h .badLabel false [])) ∧
      (∀ acc, label? cs check = some acc →
        exec (.addItem h cs check th cl st) s =
          .next (if k = .rare ∧ t ≠ 3 ∧ t ≠ 5 then s.answer h .notPermitted false []
            else if s.item acc ≠ none then s.answer h .duplicate false []
            else if 524288 ≤ s.rsc.items.length then s.answer h .mapFull false []
            else State.answer (s.setItem acc { thickness := th, cls := k, state := .atDesk t, queue := [] }) h
              .done false [])))

/-- A label is valid when its nine characters are digits and the check of R25 over them equals the one it
carries (R26); its accession number is the one the digits spell. -/
def Obligations.LabelsAreCheckedByTheirDigits : Prop :=
  ∀ (cs : List Byte) (check : BitVec 16),
    (∀ acc, label? cs check = some acc → acc < 1000000000 ∧ cs = accessionChars acc ∧ crc cs = check) ∧
    (∀ acc, acc < 1000000000 → cs = accessionChars acc → crc cs = check → label? cs check = some acc)

/-- WITHDRAW_ITEM (R30) of an item AT_DESK or MISSING: the item's record and every hold of its queue are
removed, each hold's borrower is noticed and its hold count falls, and the answer gives how many holds it had. -/
def Obligations.WithdrawItemRemovesItsHolds : Prop :=
  ∀ (h : Hdr) (cs : List Byte) (s : State) (acc : Nat) (it : Item), Served h s → accession? cs = some acc →
    s.item acc = some it → (it.state = .missing ∨ ∃ t, it.state = .atDesk t) → s.circ.pages = [] →
    ∃ t, exec (.withdrawItem h cs) s = .next t ∧
      t.svp.resp = some { tag := h.tag, code := .done, clamped := false, fields := [.num 1 it.queue.length] } ∧
      t.item acc = none ∧ (∀ n ∈ it.queue, t.hold n = none) ∧ (∀ n, n ∉ it.queue → t.hold n = s.hold n) ∧
      (∀ d, d ≠ acc → (∀ n ∈ it.queue, ∀ r, s.hold n = some r → r.item ≠ d) → t.item d = s.item d) ∧
      (it.queue.Nodup → (∀ k, t.borrower k = (s.borrower k).map (fun w => { w with
          holds := w.holds - (it.queue.filter (fun n => (s.hold n).any (fun r => r.borrower = k))).length })) ∧
        (s.svp.notices.length + it.queue.length ≤ 64 → t.svp.notices = s.svp.notices ++
          it.queue.filterMap (fun n => (s.hold n).map (fun r => ⟨.holdCancelled, r.borrower, acc, 0⟩)))) ∧
      s.SameLending { t with rsc.borrowers := s.rsc.borrowers, rsc.holds := s.rsc.holds } ∧
      t.rsc.slots = s.rsc.slots ∧ t.rsc.bins = s.rsc.bins ∧ t.dsp = s.dsp ∧ t.cranes = s.cranes ∧
      t.stu = s.stu ∧ t.fiu = s.fiu

/-- PICK_ITEM (R31, R32) of an item with no page, from a bin presented at the station: it leaves its
compartment, whose fill and item count fall, for the desk; at S5 an item whose first hold is WAITING goes to the
hold shelf, and the hold becomes READY to the borrower's last pickup day. -/
def Obligations.PickItemTakesItToTheDesk : Prop :=
  ∀ (h : Hdr) (cs : List Byte) (st : Nat) (s : State) (t : StationNo) (p : Pos) (acc b : Nat) (k : Fin 8)
    (it : Item), Served h s → station? st = some t → accession? cs = some acc → s.item acc = some it →
    it.state = .shelved b k → (s.bin b).state = .presented t p → ¬(it.cls = .rare ∧ t ≠ 3) →
    (∀ g ∈ s.circ.pages, g.item ≠ acc) →
    let desk : State := (s.setItem acc { it with state := .atDesk t }).setBin b ((s.bin b).take k it.thickness)
    (t ≠ serviceStation ∨ s.firstWaiting it = none →
      exec (.pickItem h cs st) s = .next (desk.answer h .done false
        [.num 1 1, .num 1 t.val, .num 1 ((s.bin b).fills[k] - it.thickness)])) ∧
    (∀ n r w, t = serviceStation → s.firstWaiting it = some (n, r) → s.borrower r.borrower = some w →
      let day := min (s.rsc.today + (s.policyRow w.cls).pickupDays) 65535
      exec (.pickItem h cs st) s = .next (State.answer
        (((desk.setHold n { r with state := .ready day }).setItem acc { it with state := .holdShelf t }).post
          .holdReady acc r.borrower (5 * 65536 + day)) h .done false
        [.num 1 4, .num 1 5, .num 1 ((s.bin b).fills[k] - it.thickness)]))

/-- PLACE_ITEM (R33, R34) of an item AT_DESK for which no hold waits, at another station than S4: it is SHELVED in the
first compartment with room of the first considered bin of its climate class that has room. When its first hold is
WAITING, a page is created for that hold (R153): at S5, where the bin is presented, PAGE_READY is posted, no page
stays, and the page counts as delivered in this stay of the bin (R154, log 53); at another station a claim for S5 of
priority 1 is placed on the bin. -/
def Obligations.PlaceItemShelvesTheItem : Prop :=
  ∀ (h : Hdr) (cs : List Byte) (st : Nat) (po co : Option Nat) (s : State) (t desk : StationNo) (p : Option Pos)
    (k : Option (Fin 8)) (acc : Nat) (it : Item) (q : Pos) (b : Nat) (c : Fin 8), Served h s →
    station? st = some t → optIn pos? po = some p → optIn compartment? co = some k → accession? cs = some acc →
    s.item acc = some it → it.state = .atDesk desk → t ≠ fillStation →
    s.firstRoom (s.considered t p) it.cls.climate it.thickness k = some (q, b, c) →
    let shelved := (s.setItem acc { it with state := .shelved b c }).setBin b ((s.bin b).add c it.thickness)
    let answered : State → Out := fun v => .next (v.answer h .done false
      [.num 2 b, .num 1 q.val, .num 1 c.val, .num 1 ((s.bin b).fills[c] + it.thickness)])
    (s.firstWaiting it = none → exec (.placeItem h cs st po co) s = answered shelved) ∧
    (∀ n r, s.firstWaiting it = some (n, r) → (∀ g ∈ s.circ.pages, g.item ≠ acc ∧ g.hold ≠ n) →
      (s.bin b).state = .presented t q → (s.bin b).owner = .station t →
      (t = serviceStation →
        exec (.placeItem h cs st po co) s = answered { shelved.post .pageReady acc b (5 * 256 + q.val) with
          circ.delivered := s.circ.delivered.erase (n, b) ++ [(n, b)] }) ∧
      (t ≠ serviceStation → s.clu.claims.length < 32 →
        exec (.placeItem h cs st po co) s = answered { shelved with
          clu.claims := s.clu.claims ++
            [{ bin := b, claimant := .page n, dest := serviceStation, priority := 1, placed := s.svp.tick }]
          circ.pages := s.circ.pages ++ [{ hold := n, item := acc, bin := b, state := .onClaim }] })) ∧
    (s.bin b).fills[c] + it.thickness ≤ 40 ∧ (s.bin b).climate = it.cls.climate ∧
    (k = none → ∀ d : Fin 8, d < c → 40 < (s.bin b).fills[d] + it.thickness)

/-- MARK_MISSING (R35) of a SHELVED item with no page: it leaves its compartment and is MISSING; an item that is
not SHELVED is refused. -/
def Obligations.MarkMissingTakesItOffItsShelf : Prop :=
  ∀ (h : Hdr) (cs : List Byte) (s : State) (acc : Nat) (it : Item), Served h s → accession? cs = some acc →
    s.item acc = some it →
    (∀ b k, it.state = .shelved b k → (∀ g ∈ s.circ.pages, g.item ≠ acc) →
      exec (.markMissing h cs) s = .next (State.answer
        ((s.setItem acc { it with state := .missing }).setBin b ((s.bin b).take k it.thickness)) h .done false
        [])) ∧
    ((∀ b k, it.state ≠ .shelved b k) →
      exec (.markMissing h cs) s = .next (s.answer h .notShelved false []))

/-- ITEM_INFO and LIST_ITEMS (R36, R37) answer from the records and change nothing; a page of LIST_ITEMS gives
up to 8 items above the cursor and the cursor of the next page, or END (layout of the fields: log 9). -/
def Obligations.ItemLookups : Prop :=
  ∀ (h : Hdr) (s : State), Served h s →
    (∀ cs acc it, accession? cs = some acc → s.item acc = some it →
      exec (.itemInfo h cs) s = .next (s.answer h .done false
        ([accField acc, u8 it.thickness, u8 it.cls.code, u8 it.state.code] ++ s.itemStateFields it ++
          s.queueFields it ++ [u16 (crc (accessionChars acc)).toNat]))) ∧
    (∀ b cursor c, b < 16384 → cursor? cursor = some c →
      let later := (s.itemsIn b).filter (fun e => c.all (· < e.1))
      exec (.listItems h b cursor) s = .next (s.answer h .done false
        (listFields (later.take 8) (fun e =>
            [accField e.1, u8 e.2.1.thickness, u8 e.2.1.cls.code, u8 e.2.2.val]) ++
          [match (if 8 < later.length then ((later.take 8).getLast?).map (·.1) else none) with
            | some acc => accField acc
            | none => .num 1 11])))

/-! ### Settings, queues and selection (chapter 4) -/

/-- Every setting takes its value clamped to its range, with the CLAMPED indication exactly when the value lay
outside it (R79, R96, R125, R131, R157, R188), and nothing else changes, but for these. A residence limit moves the
deadline of a running timer of its station to the arrival tick, or a restarted timer's restart tick, plus the new
limit; a timer whose new deadline is reached expires in the same action, as RESIDENCE_EXPIRY has it then: with
attention and RESIDENCE at another station than S4 and in FIRE_HOLD, with the fill release at S4 otherwise (R115,
R116). A supervision period of 0 stops the timer and ends
a lapse; one other than 0 starts the timer when the period was 0 and the library claim is set, and otherwise leaves a
running timer as it is (R188). The settings are numbered from 0 in the order of their rules (R191). -/
def Obligations.SettingsAreClampedToTheirRanges : Prop :=
  ∀ (h : Hdr) (v : Nat) (s : State), Served h s →
    let clamp : Nat → Nat → Nat := fun lo hi => max lo (min v hi)
    let off : Nat → Nat → Bool := fun lo hi => decide (v < lo ∨ hi < v)
    exec (.setDispatch h 0 v) s =
      .next (State.answer { s with rsc.settings.dispatch.ageStep := clamp 1 60 } h .done (off 1 60) []) ∧
    exec (.setDispatch h 1 v) s =
      .next (State.answer { s with rsc.settings.dispatch.wt := clamp 0 15 } h .done (off 0 15) []) ∧
    exec (.setDispatch h 2 v) s =
      .next (State.answer { s with rsc.settings.dispatch.ah := clamp 0 63 } h .done (off 0 63) []) ∧
    exec (.setDispatch h 3 v) s =
      .next (State.answer { s with rsc.settings.dispatch.av := clamp 0 63 } h .done (off 0 63) []) ∧
    exec (.setDispatch h 4 v) s =
      .next (State.answer { s with rsc.settings.dispatch.bh := clamp 0 15 } h .done (off 0 15) []) ∧
    exec (.setDispatch h 5 v) s =
      .next (State.answer { s with rsc.settings.dispatch.bv := clamp 0 15 } h .done (off 0 15) []) ∧
    exec (.setDispatch h 6 v) s =
      .next (State.answer { s with rsc.settings.dispatch.wake := clamp 0 100 } h .done (off 0 100) []) ∧
    exec (.setDispatch h 7 v) s =
      .next (State.answer { s with rsc.settings.dispatch.handling := clamp 0 255 } h .done (off 0 255) []) ∧
    exec (.setDispatch h 8 v) s =
      .next (State.answer { s with rsc.settings.dispatch.margin := clamp 0 255 } h .done (off 0 255) []) ∧
    (∀ k, 9 ≤ k → exec (.setDispatch h k v) s = .next (s.answer h .badArgument false [])) ∧
    exec (.setCrane h v) s =
      .next (State.answer { s with rsc.settings.restIdle := clamp 0 255 } h .done (off 0 255) []) ∧
    (∀ st t, residenceStation st = some t → (s.position t 0).deadline = none → (s.position t 1).deadline = none →
      exec (.setStation h 0 st v) s = .next (State.answer
        { s with rsc.settings.station.residence := s.rsc.settings.station.residence.set t (clamp 1 120) } h .done
        (off 1 120) [])) ∧
    ((s.position fillStation 0).deadline = none → (s.position fillStation 1).deadline = none →
      exec (.setStation h 1 none v) s = .next (State.answer
        { s with rsc.settings.station.residence := s.rsc.settings.station.residence.set fillStation (clamp 1 120) } h
        .done (off 1 120) [])) ∧
    (∀ k st t p a d, (k = 0 ∧ residenceStation st = some t) ∨ (k = 1 ∧ st = none ∧ t = fillStation) →
      (s.position t p).restart.or (s.position t p).arrival = some a → (s.position t p).deadline = some d →
      (∀ q, q ≠ p → (s.position t q).deadline = none) →
      let changed : State := { s with
        rsc.settings.station.residence := s.rsc.settings.station.residence.set t (clamp 1 120) }
      let due : Tick := a + BitVec.ofNat 32 (6000 * clamp 1 120)
      (due.reached s.svp.tick = false → exec (.setStation h k st v) s = .next (State.answer
        (changed.setPosition t p { s.position t p with deadline := some due }) h .done (off 1 120) [])) ∧
      (due.reached s.svp.tick = true →
        ∃ w, exec (.residenceExpiry t p) (changed.setPosition t p { s.position t p with deadline := some due }) =
            .next w ∧
          exec (.setStation h k st v) s = .next (w.answer h .done (off 1 120) [])) ∧
      (∀ b, due.reached s.svp.tick = true → (s.position t p).content = .bin b →
        (t = fillStation → (s.station t).inHold = true) →
        lampFor s.svp.tick s.rsc.settings.station.lampOn (s.station t) = (s.station t).lamp →
        exec (.setStation h k st v) s = .next (State.answer
          ((changed.setPosition t p { s.position t p with
            deadline := none, attention := true, expiredInHold := decide (t = fillStation) }).post .residence
            (t.val * 256 + p.val) b 0) h .done (off 1 120) []))) ∧
    exec (.setStation h 2 none v) s =
      .next (State.answer { s with rsc.settings.station.fillThreshold := clamp 0 320 } h .done (off 0 320) []) ∧
    exec (.setStation h 3 none v) s =
      .next (State.answer { s with rsc.settings.station.lampOn := clamp 1 100 } h .done (off 1 100) []) ∧
    exec (.setStation h 4 none v) s =
      .next (State.answer { s with rsc.settings.station.lampOff := clamp 1 100 } h .done (off 1 100) []) ∧
    (∀ k, 5 ≤ k → exec (.setStation h k none v) s = .next (s.answer h .badArgument false [])) ∧
    exec (.setRecall h 0 v) s =
      .next (State.answer { s with rsc.settings.recalls.grace := clamp 1 14 } h .done (off 1 14) []) ∧
    exec (.setRecall h 1 v) s =
      .next (State.answer { s with rsc.settings.recalls.minLoan := clamp 1 28 } h .done (off 1 28) []) ∧
    (∀ k, 2 ≤ k → exec (.setRecall h k v) s = .next (s.answer h .badArgument false [])) ∧
    exec (.setInterlock h 0 v) s =
      .next (State.answer { s with rsc.settings.interlock.filter := clamp 0 15 } h .done (off 0 15) []) ∧
    exec (.setInterlock h 1 v) s =
      .next (State.answer { s with rsc.settings.interlock.park := clamp 1 60 } h .done (off 1 60) []) ∧
    exec (.setInterlock h 2 v) s =
      .next (State.answer { s with rsc.settings.interlock.shutter := clamp 1 30 } h .done (off 1 30) []) ∧
    (s.fiu.libraryClaim = false → s.fiu.lapsed = false → s.fiu.supTimer = none →
      exec (.setInterlock h 3 v) s =
        .next (State.answer { s with rsc.settings.interlock.supervision := clamp 0 60 } h .done (off 0 60) [])) ∧
    (0 < v → s.rsc.settings.interlock.supervision ≠ 0 ∨ s.fiu.libraryClaim = false →
      exec (.setInterlock h 3 v) s =
        .next (State.answer { s with rsc.settings.interlock.supervision := clamp 0 60 } h .done (off 0 60) [])) ∧
    (0 < v → s.rsc.settings.interlock.supervision = 0 → s.fiu.libraryClaim = true →
      exec (.setInterlock h 3 v) s = .next (State.answer { s with
        rsc.settings.interlock.supervision := clamp 0 60
        fiu.supTimer := some (s.svp.tick + BitVec.ofNat 32 (100 * clamp 0 60)) } h .done (off 0 60) [])) ∧
    (v = 0 → (s.fiu.lapsed = true → s.NoneAvailable ∧ ∀ a, (s.crane a).state ≠ .parked) →
      exec (.setInterlock h 3 v) s = .next (State.answer { s with
        rsc.settings.interlock.supervision := 0, fiu.supTimer := none, fiu.lapsed := false } h .done false [])) ∧
    (∀ k, 4 ≤ k → exec (.setInterlock h k v) s = .next (s.answer h .badArgument false [])) ∧
    (∀ c : Fin 4,
      let row := s.policyRow c
      let put : PolicyRow → State := fun r => { s with rsc.policy := s.rsc.policy.set c r }
      exec (.setPolicy h c 0 v) s =
        .next (State.answer (put { row with generalDays := clamp 1 365 }) h .done (off 1 365) []) ∧
      exec (.setPolicy h c 1 v) s =
        .next (State.answer (put { row with shortDays := clamp 1 14 }) h .done (off 1 14) []) ∧
      exec (.setPolicy h c 2 v) s =
        .next (State.answer (put { row with maxLoans := clamp 0 255 }) h .done (off 0 255) []) ∧
      exec (.setPolicy h c 3 v) s =
        .next (State.answer (put { row with maxRenewals := clamp 0 15 }) h .done (off 0 15) []) ∧
      exec (.setPolicy h c 4 v) s =
        .next (State.answer (put { row with maxHolds := clamp 0 8 }) h .done (off 0 8) []) ∧
      exec (.setPolicy h c 5 v) s =
        .next (State.answer (put { row with capDay := clamp 0 65535 }) h .done (off 0 65535) []) ∧
      exec (.setPolicy h c 6 v) s =
        .next (State.answer (put { row with pickupDays := clamp 1 14 }) h .done (off 1 14) [])) ∧
    (∀ c k, 4 ≤ c ∨ 7 ≤ k → exec (.setPolicy h c k v) s = .next (s.answer h .badArgument false []))

/-- STOP_AISLE (R63, R64) stops a RUNNING queue at once, or lets the crane's order end first; a queue already
STOPPING or STOPPED stays; the answer reports the state and its reason. START_AISLE (R65) is refused over a set
latch and in a zone that is not NORMAL; otherwise the queue is RUNNING with no reason. -/
def Obligations.StopAndStartAisle : Prop :=
  ∀ (h : Hdr) (n : Nat) (s : State) (a : Aisle), Served h s → aisle? n = some a →
    ((s.queue a).state = .running → (s.crane a).state.holdsOrder = true →
      exec (.stopAisle h n) s = .next (State.answer
        (s.setQueue a { s.queue a with state := .stopping, reason := some .host }) h .done false
        [.num 1 1, .num 1 0])) ∧
    ((s.queue a).state = .running → (s.crane a).state.holdsOrder = false →
      exec (.stopAisle h n) s = .next (State.answer
        (s.setQueue a { s.queue a with state := .stopped, reason := some .host }) h .done false [.num 1 2, .num 1 0])) ∧
    ((s.queue a).state ≠ .running →
      exec (.stopAisle h n) s = .next (s.answer h .done false
        [.num 1 (s.queue a).state.code, optField 1 ((s.queue a).reason.map StopReason.code)])) ∧
    (s.latched a = true → exec (.startAisle h n) s = .next (s.answer h .latched false [])) ∧
    (s.latched a = false → s.zoneNormal a = false →
      exec (.startAisle h n) s = .next (s.answer h .zone false [])) ∧
    (s.latched a = false → s.zoneNormal a = true → (s.crane a).buffer = [] → (s.crane a).available = false →
      exec (.startAisle h n) s = .next (State.answer
        (s.setQueue a { s.queue a with state := .running, reason := none }) h .done false []))

/-- CANCEL_JOB (R66) of a QUEUED FETCH with origin SINGLE, when nothing waits for the freed place: the record
frees, the job leaves its queue, the bin passes to owner NONE, and no notice is posted. A free record is refused
NO_JOB, a PUTAWAY or PUTBACK NOT_CANCELLABLE, and an ACTIVE job of another kind ACTIVE. The cancelling of a QUEUED
SHIFT, VERIFY or FETCH of another origin, which R66 gives too, is not stated here. -/
def Obligations.CancelJobFreesItsBin : Prop :=
  ∀ (h : Hdr) (j : Nat) (s : State), Served h s → j < 128 →
    (s.job j = none → exec (.cancelJob h j) s = .next (s.answer h .noJob false [])) ∧
    (∀ r, s.job j = some r →
      (r.kind = .putaway ∨ r.kind = .putback → exec (.cancelJob h j) s = .next (s.answer h .notCancellable false [])) ∧
      (r.kind ≠ .putaway → r.kind ≠ .putback → r.active = true →
        exec (.cancelJob h j) s = .next (s.answer h .active false [])) ∧
      (∀ a u, r.kind = .fetch → r.active = false → r.origin = .single → r.aisle = some a → r.dest = .station u →
        (s.bin r.bin).owner = .job j → j ∈ (s.queue a).jobs → (s.queue a).putback ≠ some j → s.NothingWaits →
        ∃ t, exec (.cancelJob h j) s = .next t ∧
          t.svp.resp = some { tag := h.tag, code := .done, clamped := false, fields := [] } ∧
          t.job j = none ∧ (∀ i, i ≠ j → t.job i = s.job i) ∧
          t.queue a = { s.queue a with jobs := (s.queue a).jobs.filter (· != j) } ∧
          (∀ c, c ≠ a → t.queue c = s.queue c) ∧
          t.bin r.bin = { s.bin r.bin with owner := .none } ∧ (∀ b, b ≠ r.bin → t.bin b = s.bin b) ∧
          t.rsc.slots = s.rsc.slots ∧ t.rsc.items = s.rsc.items ∧ t.stu = s.stu ∧ t.fiu = s.fiu ∧
          t.svp.notices = s.svp.notices ∧ t.outputs = s.outputs ∧ s.SameLending t))

/-- AUDIT_AISLE (R77, R78): BUSY while the long-operation slot is taken, NO_AUTHORITY unless the authority is
LIBRARY; otherwise STARTED. An aisle with no audit-pending bin is done in the same action. The first audit-pending bin,
when it is unowned and unclaimed and there is room, gets a QUEUED VERIFY job of priority 0 and origin AUDIT that owns
it (R57); when it is the only one, AUDIT_DONE is posted at once with one job created. A bin that is owned or claimed is
passed over, and the next pass waits, for the next ending of a job of the aisle (log 34). -/
def Obligations.AuditOfACleanAisleEndsAtOnce : Prop :=
  ∀ (h : Hdr) (n : Nat) (s : State) (a : Aisle), Served h s → aisle? n = some a →
    (s.svp.longOp ≠ none → exec (.auditAisle h n) s = .next (s.answer h .busy false [])) ∧
    (s.svp.longOp = none → s.authority ≠ .library →
      exec (.auditAisle h n) s = .next (s.answer h .noAuthority false [])) ∧
    (s.svp.longOp = none → s.authority = .library → s.auditNext a 0 = none →
      exec (.auditAisle h n) s = .next (State.answer
        (State.post { s with dsp.audit := none, svp.longOp := none } .auditDone a.val 0 0) h .started false [])) ∧
    (∀ i b, s.svp.longOp = none → s.authority = .library → s.auditNext a 0 = some (i, b) →
      let x := SlotAddr.ofIndex a i
      (∀ j, (s.bin b).owner = .none → s.oldestClaim b = none → s.freeJob = some j → (s.queue a).used < 32 →
        (s.crane a).available = false →
        let verify : Job :=
          { kind := .verify, aisle := some a, bin := b, source := .slot x, dest := .slot x, priority := 0,
            enqueued := s.svp.tick, origin := .audit, active := false }
        (∃ t, exec (.auditAisle h n) s = .next t ∧
          t.svp.resp = some { tag := h.tag, code := .started, clamped := false, fields := [] } ∧
          t.job j = some verify ∧ t.bin b = { s.bin b with owner := .job j } ∧ j ∈ (t.queue a).jobs ∧
          (∀ k, s.job k ≠ none → t.job k = s.job k) ∧ (∀ c, c ≠ a → t.queue c = s.queue c) ∧
          t.rsc.slots = s.rsc.slots ∧ t.cranes = s.cranes ∧ t.clu = s.clu ∧ t.stu = s.stu ∧ t.fiu = s.fiu ∧
          t.outputs = s.outputs ∧ s.SameLending t) ∧
        (s.auditNext a (i + 1) = none → exec (.auditAisle h n) s = .next (State.answer
          (State.post { (((s.takeRecord j verify).setOwner b (.job j)).enqueue a j) with
            dsp.audit := none, svp.longOp := none } .auditDone a.val 1 0) h .started false []))) ∧
      ((s.bin b).owner ≠ .none ∨ s.oldestClaim b ≠ none → s.auditNext a (i + 1) = none →
        exec (.auditAisle h n) s = .next (State.answer { s with
          svp.longOp := some .audit
          dsp.audit := some { aisle := a, cursor := 0, pass := 2, created := 0, passed := 0, lastPassed := 1,
                              betweenPasses := true } } h .started false [])))

/-- JOB_INFO, AISLE_INFO, CRANE_INFO, STATION_INFO and BATCH_INFO (R80, R103, R126) answer from the records and
change nothing; a number out of range is refused (layout of the fields: log 9; the code of a position's content: log 64). -/
def Obligations.MovementLookups : Prop :=
  ∀ (h : Hdr) (n : Nat) (s : State), Served h s →
    (n < 128 → ∀ r, s.job n = some r →
      exec (.jobInfo h n) s = .next (s.answer h .done false ([.num 1 n, .num 1 1] ++ r.fields))) ∧
    (n < 128 → s.job n = none → exec (.jobInfo h n) s = .next (s.answer h .done false [.num 1 n, .num 1 0])) ∧
    (128 ≤ n → exec (.jobInfo h n) s = .next (s.answer h .badArgument false [])) ∧
    (∀ a, aisle? n = some a →
      let q := s.queue a
      let c := s.crane a
      let atPort : Nat → List Field := fun b =>
        [.num 2 b] ++ (s.bin b).owner.fields ++ [optSlot (s.bin b).state.reserved?]
      exec (.aisleInfo h n) s = .next (s.answer h .done false
        ([.num 1 q.state.code, optField 1 (q.reason.map StopReason.code), .num 1 q.jobs.length] ++
          q.jobs.flatMap (fun j =>
            match s.job j with
            | some r => [.num 1 j, .num 1 r.kind.code, .num 2 r.bin, flagField r.active, tickField r.enqueued]
            | none => [.num 1 j]) ++
          [optField 1 q.putback] ++
          listFields (c.buffer.filter (fun b => q.deferred.any (·.1 = b))) (fun b => [.num 2 b]) ++
          match s.dsp.audit.filter (·.aisle = a) with
          | some u => [slotField (SlotAddr.ofIndex a u.cursor), .num 1 u.pass, .num 2 u.created, .num 2 u.passed,
                       .num 2 u.lastPassed]
          | none => [.absent 4, .absent 1, .absent 2, .absent 2, .absent 2])) ∧
      exec (.craneInfo h n) s = .next (s.answer h .done false
        ([.num 1 c.state.code] ++ positionFields c.position ++ orderFields c.order ++
          [optField 1 c.selected, .num 1 c.lastTag.toNat, flagField c.load, flagField (c.state = .parked),
           flagField c.restOutstanding, .num 1 (c.fault.arg / 65536), .num 1 (c.fault.arg % 65536),
           optField 1 c.resume] ++ listFields c.buffer atPort ++ listFields c.overflow atPort))) ∧
    (4 ≤ n → exec (.aisleInfo h n) s = .next (s.answer h .badArgument false []) ∧
      exec (.craneInfo h n) s = .next (s.answer h .badArgument false [])) ∧
    (∀ u, station? n = some u →
      exec (.stationInfo h n) s = .next (s.answer h .done false
        ([.num 1 (s.station u).state.code, optField 1 ((s.station u).state.prior?.map OpenState.code)] ++
          listFields (s.station u).lane (fun b => [.num 2 b, optField 1 (s.jobOf b)]) ++
          (s.position u 0).fields ++ (s.position u 1).fields ++ [.num 1 (s.station u).lamp.code]))) ∧
    (6 ≤ n → exec (.stationInfo h n) s = .next (s.answer h .badArgument false [])) ∧
    (∀ r, n < 8 → s.batch n = some r →
      exec (.batchInfo h n) s = .next (s.answer h .done false
        ([.num 1 n, .num 1 1, .num 1 r.station.val, .num 1 r.mode.code, .num 4 r.sequence, .num 1 r.priority] ++
          listFields r.entries Entry.fields ++ [.num 1 r.state.code]))) ∧
    (n < 8 → s.batch n = none → exec (.batchInfo h n) s = .next (s.answer h .done false [.num 1 n, .num 1 0])) ∧
    (8 ≤ n → exec (.batchInfo h n) s = .next (s.answer h .badArgument false []))

/-- The merit of a job lies within −1918..850 while wt is at most 15 and the job's priority at most 3 (R72): it
is P + G − W with P at most 600, G at most 250 and W at most 1918, which W reaches only with wt 15 and a travel
of 1023. SET_DISPATCH keeps wt at most 15. -/
def Obligations.MeritStaysWithinItsLimits : Prop :=
  (∀ (s : State) (a : Aisle) (r : Job), s.rsc.settings.dispatch.wt ≤ 15 → r.priority ≤ 3 →
    ∃ P G W travel : Nat, s.merit a r = (P : Int) + G - W ∧ P ≤ 600 ∧ G ≤ 250 ∧ W ≤ 1918 ∧ travel ≤ 1023 ∧
      W = travel * s.rsc.settings.dispatch.wt / 8 ∧
      (W = 1918 → s.rsc.settings.dispatch.wt = 15 ∧ travel = 1023) ∧
      -1918 ≤ s.merit a r ∧ s.merit a r ≤ 850) ∧
  (∀ (h : Hdr) (k v : Nat) (s t : State), s.rsc.settings.dispatch.wt ≤ 15 →
    exec (.setDispatch h k v) s = .next t → t.rsc.settings.dispatch.wt ≤ 15)

/-- With no resume order held, a selection takes a QUEUED job only under the common conditions (R67) and the
condition of its kind (R68): the queue is RUNNING, the zone NORMAL, the latch clear, the authority LIBRARY,
supervision not lapsed, and the crane IDLE or RESTING; otherwise a selection changes nothing. The job selected
is one of highest merit among the eligible QUEUED jobs, and of equals the nearest to the head (R71). A selection
makes it ACTIVE, gives a FETCH its lane place (R75), and sends an IDLE crane its order with a new tag, the deadline
of R73 and the accept timer (R83, R86, R87), a RESTING crane WAKE with the ready timer (R75, R86); first each
waiting PUTBACK without a reservation is given its search (R68). -/
def Obligations.SelectionNeedsTheCommonConditions : Prop :=
  (∀ (s : State) (a : Aisle), (s.crane a).resume = none →
    ¬((s.queue a).state = .running ∧ (s.zone a.zone).state = .normal ∧ (s.zone a.zone).latch = false ∧
        s.authority = .library ∧ s.fiu.lapsed = false ∧
        ((s.crane a).state = .idle ∨ (s.crane a).state = .resting)) →
    s.selectAisle a = s) ∧
  (∀ (s : State) (a : Aisle) (j : Nat) (r : Job), s.bestJob a = some (j, r) →
    j ∈ (s.queue a).jobs ∧ s.job j = some r ∧ r.active = false ∧ s.kindEligible j r false = true ∧
    (∀ i q, i ∈ (s.queue a).jobs → s.job i = some q → q.active = false → s.kindEligible i q false = true →
      s.merit a q ≤ s.merit a r) ∧
    ∀ front back, (s.queue a).jobs = front ++ j :: back → j ∉ front → ∀ i ∈ front, ∀ q, s.job i = some q →
      q.active = false → s.kindEligible i q false = true → s.merit a q < s.merit a r) ∧
  (∀ (s : State) (a : Aisle), (s.crane a).resume = none → (s.queue a).state = .running →
    (s.zone a.zone).state = .normal → (s.zone a.zone).latch = false → s.authority = .library →
    s.fiu.lapsed = false → ((s.crane a).state = .idle ∨ (s.crane a).state = .resting) →
    let s1 := s.reservePutbacks a
    let t := s.selectAisle a
    ((∀ i ∈ (s.queue a).jobs, ∀ q, s.job i = some q → q.kind ≠ .putback) → s1 = s) ∧
    (s1.bestJob a = none → t = s1) ∧
    (∀ j r, s1.bestJob a = some (j, r) →
      t.job j = some { r with active := true } ∧ (∀ i, i ≠ j → t.job i = s1.job i) ∧ t.rsc = s1.rsc ∧
      (∀ c, t.queue c = s.queue c) ∧ (∀ c, c ≠ a → t.crane c = s.crane c) ∧ t.fiu = s.fiu ∧ t.clu = s.clu ∧
      (∀ u, (t.station u).lane =
        if r.kind = .fetch ∧ r.dest = .station u then (s.station u).lane ++ [r.bin] else (s.station u).lane) ∧
      ((s.crane a).state = .idle →
        let tag := nextTag (s.crane a).lastTag
        let time := orderTime s.rsc.settings.dispatch r.kind.order (decide (r.kind = .putback)) (s.crane a).at
          r.sourceSlot? r.destSlot?
        t.crane a = { s.crane a with
          state := .busy
          lastTag := tag
          restOutstanding := false
          restTimer := none
          acceptTimer := some (s.svp.tick + 200)
          order := some { kind := r.kind.order, tag := tag, job := some j, slot := r.sourceSlot?,
                          deadline := s.svp.tick + BitVec.ofNat 32 (10 * time), loaded := decide (r.kind = .putback),
                          picked := false, accepted := false } } ∧
        t.outputs = s.outputs ++ [.order a
          (orderMessage r.kind.order r.bin r.sourceSlot? r.destSlot? (decide (r.kind = .putback)) tag)] ∧
        (∀ x, r.kind = .fetch → r.source = .slot x → time =
          travel s.rsc.settings.dispatch (s.crane a).at x.pos + travel s.rsc.settings.dispatch portPos x.pos +
            2 * s.rsc.settings.dispatch.handling + s.rsc.settings.dispatch.margin)) ∧
      ((s.crane a).state = .resting →
        t.crane a = { s.crane a with
          state := .waking
          selected := some j
          readyTimer := some (s.svp.tick + 200)
          restTimer := none } ∧
        t.outputs = s.outputs ++ [.order a .wake])))

/-! ### Cranes (chapter 5) -/

/-- RECOVER_CRANE (R93, R94) and PORT_REMOVE (R102). NONE, with no job on the recorded order, sends CLEAR and
starts the ready timer; CONTINUE with the bin on the forks keeps the job as the resume order, and without a pick
returns it to QUEUED with its lane place released; STORED_AT makes the bin STORED where staff found it and LOST
makes it UNCERTAIN (R10), and both end the FETCH with FETCH_FAILED; a crane that is not HALTED is refused.
PORT_REMOVE of an unowned bin in a port inbound buffer makes it UNCERTAIN and frees its reservation. That NONE,
CONTINUE and LOST ignore a slot address sent with them, one out of range included, is the model's choice (log 55). -/
def Obligations.RecoverCraneAndPortRemove : Prop :=
  (∀ (h : Hdr) (n : Nat) (x : Option RawSlot) (s : State) (a : Aisle), Served h s → aisle? n = some a →
    let cleared : Crane := { s.crane a with
      order := none
      acceptTimer := none
      readyTimer := some (s.svp.tick + 200)
      clearSent := true }
    ((s.crane a).state ≠ .halted → exec (.recoverCrane h n 0 x) s = .next (s.answer h .notHalted false [])) ∧
    ((s.crane a).state = .halted → s.heldOrder a = none → (s.crane a).resume = none →
      exec (.recoverCrane h n 0 x) s =
        .next (State.answer ((s.setCrane a cleared).send a .clear) h .done false [])) ∧
    (∀ o j r, (s.crane a).state = .halted → s.heldOrder a = some (o, j, r) → o.isPicked = true →
      (s.crane a).load = true →
      ∃ t, exec (.recoverCrane h n 1 x) s = .next t ∧ t.crane a = { cleared with resume := some j } ∧
        (∀ c, c ≠ a → t.crane c = s.crane c) ∧ t.outputs = s.outputs ++ [.order a .clear] ∧
        t.dsp = s.dsp ∧ t.rsc = s.rsc ∧ t.clu = s.clu ∧ t.stu = s.stu ∧ t.fiu = s.fiu ∧
        t.svp.resp = some { tag := h.tag, code := .done, clamped := false, fields := [] }) ∧
    (∀ o j r u, (s.crane a).state = .halted → s.heldOrder a = some (o, j, r) → o.isPicked = false →
      (s.crane a).load = false → r.kind = .fetch → r.dest = .station u → s.NothingWaits → s.NoneAvailable →
      (s.station u).isDraining = false →
      ∃ t, exec (.recoverCrane h n 1 x) s = .next t ∧ t.crane a = cleared ∧ t.job j = some { r with active := false } ∧
        (∀ i, i ≠ j → t.job i = s.job i) ∧ (∀ c, t.queue c = s.queue c) ∧
        (t.station u).lane = (s.station u).lane.filter (· != r.bin) ∧ t.rsc = s.rsc ∧
        t.outputs = s.outputs ++ [.order a .clear] ∧
        t.svp.resp = some { tag := h.tag, code := .done, clamped := false, fields := [] }) ∧
    (∀ o j r u, (s.crane a).state = .halted → s.heldOrder a = some (o, j, r) → r.kind = .fetch →
      r.origin = .single → r.dest = .station u → r.aisle = some a → (s.bin r.bin).state = .onCrane none →
      (s.bin r.bin).owner = .job j → j ∈ (s.queue a).jobs → (s.queue a).putback ≠ some j →
      (∀ c, r.bin ∉ (s.crane c).buffer) → s.NothingWaits → s.NoneAvailable →
      (∀ v, (s.station v).isDraining = false) → s.svp.notices.length < 64 →
      let ended : State → Nat → Prop := fun t k =>
        t.job j = none ∧ (∀ i, i ≠ j → t.job i = s.job i) ∧
        (t.queue a).jobs = (s.queue a).jobs.filter (· != j) ∧ (t.crane a).order = none ∧
        (t.crane a).readyTimer = some (s.svp.tick + 200) ∧ (t.crane a).state = .halted ∧
        (t.station u).lane = (s.station u).lane.filter (· != r.bin) ∧
        t.svp.notices = s.svp.notices ++ [⟨.fetchFailed, r.bin, k, 0⟩] ∧
        t.outputs = s.outputs ++ [.order a .clear] ∧ t.rsc.items = s.rsc.items ∧ t.fiu = s.fiu ∧
        t.svp.resp = some { tag := h.tag, code := .done, clamped := false, fields := [] }
      (∀ raw y, x = some raw → slot? raw = some y → y.aisle = a → (s.slot y).state = .free →
        (s.slot y).held = none → fits (s.bin r.bin) (s.slot y) = true →
        ∃ t, exec (.recoverCrane h n 2 x) s = .next t ∧ ended t 3 ∧
          t.bin r.bin = { s.bin r.bin with state := .stored y, owner := .none } ∧
          (∀ b, b ≠ r.bin → t.bin b = s.bin b) ∧ t.slot y = { s.slot y with state := .occupied r.bin } ∧
          ∀ z, z ≠ y → t.slot z = s.slot z) ∧
      ∃ t, exec (.recoverCrane h n 3 x) s = .next t ∧ ended t 1 ∧
        t.bin r.bin = { s.bin r.bin with state := .uncertain, owner := .none } ∧
        (∀ b, b ≠ r.bin → t.bin b = s.bin b) ∧ t.rsc.slots = s.rsc.slots)) ∧
  (∀ (h : Hdr) (n b : Nat) (s : State) (a : Aisle) (x : SlotAddr), Served h s → aisle? n = some a → b < 16384 →
    b ∈ (s.crane a).buffer → (s.crane a).overflow = [] → (∀ c, c ≠ a → b ∉ (s.crane c).buffer) →
    (s.bin b).state = .atPort a (some x) → (s.slot x).state = .reserved b →
    (s.bin b).owner = .none → Tab.find s.clu.fireJobs b = none → s.NothingWaits →
    (∀ u, b ∉ (s.station u).lane) →
    ∃ t, exec (.portRemove h n b) s = .next t ∧
      t.svp.resp = some { tag := h.tag, code := .done, clamped := false, fields := [] } ∧
      t.bin b = { s.bin b with state := .uncertain } ∧ (∀ c, c ≠ b → t.bin c = s.bin c) ∧
      t.slot x = { s.slot x with state := .free } ∧ (∀ y, y ≠ x → t.slot y = s.slot y) ∧
      t.crane a = { s.crane a with
        buffer := (s.crane a).buffer.filter (· != b)
        arrivals := (s.crane a).arrivals.filter (fun e => e.1 != b) } ∧
      t.dsp.jobs = s.dsp.jobs ∧ t.stu = s.stu ∧ t.fiu = s.fiu ∧ t.rsc.items = s.rsc.items ∧ s.SameLending t)

/-- The course of a FETCH's order: ACCEPTED stops the accept timer (R86); PICKED lifts the STORED bin out of its
slot onto the crane (R2, R87); DONE after PICKED puts the bin EN_ROUTE to its station, the job leaves its queue,
and the crane is IDLE where the drive says (R88). PICKED of a STORE takes the bin out of the port inbound buffer
with its reservation, PICKED of a SHIFT frees its source slot and reserves the held one; DONE of a STORE or a SHIFT,
of a PUTAWAY, SHIFT or PUTBACK job, makes the bin STORED in its reserved slot and ends the job, and the oldest
claim on the bin becomes a FETCH job there (R49). The premises hold back what a freed place or an IDLE crane would
start: an empty buffer, a STOPPED queue, no rest time, nothing else that waits. -/
def Obligations.AcceptedPickedDone : Prop :=
  (∀ (a : Aisle) (tag : Byte) (s : State) (o : Order), (s.crane a).state = .busy → (s.crane a).order = some o →
    o.tag = tag →
    (o.accepted = false → exec (.accepted a tag) s = .next (s.setCrane a { s.crane a with
      order := some { o with accepted := true }
      acceptTimer := none })) ∧
    (∀ j r x, o.kind = .retrieve → o.picked = false → o.loaded = false → o.job = some j → s.job j = some r →
      r.kind = .fetch → (s.bin r.bin).state = .stored x → (s.slot x).state = .occupied r.bin →
      (s.crane a).buffer = [] →
      exec (.picked a tag) s = .next
        (((s.setSlot x { s.slot x with state := .free }).setBin r.bin { s.bin r.bin with
          state := .onCrane none }).setCrane a { s.crane a with
            order := some { o with picked := true }
            load := true })) ∧
    (∀ j r u pos, o.kind = .retrieve → o.picked = true → o.job = some j → s.job j = some r → r.kind = .fetch →
      r.dest = .station u → (s.bin r.bin).state = .onCrane none → j ∈ (s.queue a).jobs →
      (s.queue a).putback ≠ some j → (s.queue a).state = .stopped → s.zoneNormal a = true →
      s.authority = .library → (s.crane a).resume = none → s.rsc.settings.restIdle = 0 → s.NothingWaits →
      ∃ t, exec (.done a tag pos) s = .next t ∧
        t.bin r.bin = { s.bin r.bin with state := .enRoute u } ∧ (∀ b, b ≠ r.bin → t.bin b = s.bin b) ∧
        t.crane a = { s.crane a with
          state := .idle
          position := some pos
          load := false
          order := none
          acceptTimer := none } ∧
        t.queue a = { s.queue a with jobs := (s.queue a).jobs.filter (· != j) } ∧ t.dsp.jobs = s.dsp.jobs ∧
        t.rsc.slots = s.rsc.slots ∧ t.stu = s.stu ∧ t.fiu = s.fiu ∧ t.svp.notices = s.svp.notices ∧
        t.outputs = s.outputs ∧ s.SameLending t)) ∧
  (∀ (a : Aisle) (tag : Byte) (s : State) (o : Order) (j : Nat) (r : Job), (s.crane a).state = .busy →
    (s.crane a).order = some o → o.tag = tag → o.picked = false → o.loaded = false → o.job = some j →
    s.job j = some r →
    (∀ x, o.kind = .store → r.kind = .putaway → (s.bin r.bin).state = .atPort a x → (s.crane a).overflow = [] →
      exec (.picked a tag) s = .next
        ((s.setBin r.bin { s.bin r.bin with state := .onCrane x }).setCrane a { s.crane a with
          buffer := (s.crane a).buffer.filter (· != r.bin)
          arrivals := (s.crane a).arrivals.filter (fun e => e.1 != r.bin)
          order := some { o with picked := true }
          load := true })) ∧
    (∀ x y, o.kind = .shift → r.kind = .shift → r.dest = .slot y → (s.bin r.bin).state = .stored x →
      (s.slot x).state = .occupied r.bin → (s.slot y).state = .free → (s.crane a).buffer = [] →
      ∃ t, exec (.picked a tag) s = .next t ∧
        t.bin r.bin = { s.bin r.bin with state := .onCrane (some y) } ∧ (∀ b, b ≠ r.bin → t.bin b = s.bin b) ∧
        t.slot x = { s.slot x with state := .free } ∧
        t.slot y = { s.slot y with state := .reserved r.bin, held := none } ∧
        (∀ z, z ≠ x → z ≠ y → t.slot z = s.slot z) ∧
        t.crane a = { s.crane a with order := some { o with picked := true }, load := true } ∧
        t.dsp = s.dsp ∧ t.clu = s.clu ∧ t.stu = s.stu ∧ t.fiu = s.fiu ∧ t.outputs = s.outputs ∧
        t.svp.notices = s.svp.notices ∧ s.SameLending t)) ∧
  (∀ (a : Aisle) (tag : Byte) (s : State) (o : Order) (j : Nat) (r : Job) (x : SlotAddr) (pos : CranePos),
    (s.crane a).state = .busy → (s.crane a).order = some o → o.tag = tag → o.kind ≠ .verify → o.isPicked = true →
    o.job = some j → s.job j = some r → j < 128 → r.kind ≠ .fetch → r.aisle = some a → r.dest = .slot x →
    x.aisle = a → (s.bin r.bin).state = .onCrane (some x) → (s.slot x).state = .reserved r.bin →
    (s.slot x).held = none → j ∈ (s.queue a).jobs → (s.queue a).putback ≠ some j → (s.queue a).used ≤ 32 →
    (s.queue a).state = .stopped → s.zoneNormal a = true → s.authority = .library → (s.crane a).resume = none →
    (s.crane a).selected ≠ some j → s.rsc.settings.restIdle = 0 →
    State.NothingWaits { s with clu.claims := [] } →
    let stored : State → Prop := fun t =>
      t.slot x = { s.slot x with state := .occupied r.bin } ∧ (∀ y, y ≠ x → t.slot y = s.slot y) ∧
      (∀ b, b ≠ r.bin → t.bin b = s.bin b) ∧
      t.crane a = { s.crane a with
        state := .idle
        position := some pos
        load := false
        order := none
        acceptTimer := none } ∧
      t.stu = s.stu ∧ t.fiu = s.fiu ∧ t.svp.notices = s.svp.notices ∧ t.outputs = s.outputs ∧ s.SameLending t
    (s.clu.claims = [] → ∃ t, exec (.done a tag pos) s = .next t ∧ stored t ∧
      t.bin r.bin = { s.bin r.bin with state := .stored x, owner := .none } ∧ t.job j = none ∧
      (∀ i, i ≠ j → t.job i = s.job i) ∧
      t.queue a = { s.queue a with jobs := (s.queue a).jobs.filter (· != j) } ∧ t.clu.claims = []) ∧
    (∀ c, s.clu.claims = [c] → c.bin = r.bin → c.claimant = .single →
      ∃ t i, exec (.done a tag pos) s = .next t ∧ stored t ∧
        t.bin r.bin = { s.bin r.bin with state := .stored x, owner := .job i } ∧
        t.job i = some { kind := .fetch, aisle := some a, bin := r.bin, source := .slot x, dest := .station c.dest,
                         priority := c.priority, enqueued := c.placed, origin := .single, active := false } ∧
        (∀ k, k ≠ i → k ≠ j → t.job k = s.job k) ∧
        t.queue a = { s.queue a with jobs := (s.queue a).jobs.filter (· != j) ++ [i] } ∧ t.clu.claims = []))

/-- VERIFIED with the expected label (R21, R88): the bin's audit-pending flag is cleared, it passes to owner NONE
where it stands, and the job's record frees. ABORTED with no load of an order not picked (R98, R180): the job
returns to QUEUED, and the crane, whose zone is not NORMAL, is sent PARK. ABORTED of a picked FETCH with its load
(R180, R181): the bin stays on the forks, FIRE-owned, with its former slot reserved again, the FETCH ends with
FETCH_FAILED, and a PUTBACK of priority 3 takes a record, is recorded against the bin and waits for the queue. -/
def Obligations.VerifiedAndAborted : Prop :=
  (∀ (a : Aisle) (tag : Byte) (s : State) (o : Order) (j : Nat) (r : Job), (s.crane a).order = some o →
    o.tag = tag → o.job = some j → s.job j = some r → (s.crane a).resume = none →
    (∀ x, (s.crane a).state = .busy → o.kind = .verify → o.slot = some x → r.kind = .verify →
      r.source = .slot x → r.dest = .slot x → r.aisle = some a → (s.slot x).held = none →
      (s.bin r.bin).state = .stored x → (s.bin r.bin).owner = .job j → (s.queue a).state = .stopped →
      (s.queue a).putback ≠ some j → j ∈ (s.queue a).jobs → s.zoneNormal a = true → s.authority = .library →
      s.rsc.settings.restIdle = 0 → (s.crane a).selected ≠ some j → s.NothingWaits →
      ∃ t, exec (.verified a tag (some r.bin)) s = .next t ∧
        t.bin r.bin = { s.bin r.bin with audit := false, owner := .none } ∧
        (∀ b, b ≠ r.bin → t.bin b = s.bin b) ∧ t.job j = none ∧ (∀ i, i ≠ j → t.job i = s.job i) ∧
        t.queue a = { s.queue a with jobs := (s.queue a).jobs.filter (· != j) } ∧
        t.crane a = { s.crane a with
          state := .idle
          position := some x.pos
          load := false
          order := none
          acceptTimer := none } ∧
        t.rsc.slots = s.rsc.slots ∧ t.stu = s.stu ∧ t.fiu = s.fiu ∧ s.SameLending t) ∧
    (∀ pos, (s.crane a).state = .aborting → r.kind ≠ .fetch → o.picked = false → o.loaded = false →
      (s.queue a).state ≠ .stopping → s.zoneNormal a = false →
      exec (.aborted a tag pos false) s = .next
        (((s.setJob j { r with active := false }).setCrane a { s.crane a with
          state := .parking
          position := some pos
          load := false
          order := none
          acceptTimer := none
          restOutstanding := false
          restTimer := none }).send a .park))) ∧
  (∀ (a : Aisle) (tag : Byte) (s : State) (o : Order) (j : Nat) (r : Job) (u : StationNo) (x : SlotAddr)
    (pos : CranePos), (s.crane a).state = .aborting → (s.crane a).order = some o → o.tag = tag →
    o.isPicked = true → o.job = some j → s.job j = some r → j < 128 → r.kind = .fetch → r.origin = .single →
    r.aisle = some a → r.source = .slot x → r.dest = .station u → (s.bin r.bin).state = .onCrane none →
    (s.bin r.bin).owner = .job j → (s.slot x).state = .free → (s.slot x).held = none → j ∈ (s.queue a).jobs →
    (s.queue a).putback = none → (s.queue a).used ≤ 32 → (s.queue a).state ≠ .stopping → s.zoneNormal a = false →
    (s.crane a).resume = none → (s.crane a).selected ≠ some j → s.NothingWaits → s.NoneAvailable →
    (∀ v, (s.station v).isDraining = false) → s.svp.notices.length < 64 →
    ∃ t n, exec (.aborted a tag pos true) s = .next t ∧
      t.bin r.bin = { s.bin r.bin with state := .onCrane (some x), owner := .fire } ∧
      (∀ b, b ≠ r.bin → t.bin b = s.bin b) ∧ t.slot x = { s.slot x with state := .reserved r.bin } ∧
      (∀ y, y ≠ x → t.slot y = s.slot y) ∧
      t.job n = some { kind := .putback, aisle := some a, bin := r.bin, source := .forks, dest := .slot x,
                       priority := 3, enqueued := s.svp.tick, origin := .fireRecovery, active := false } ∧
      (∀ i, i ≠ n → i ≠ j → t.job i = s.job i) ∧ Tab.find t.clu.fireJobs r.bin = some n ∧
      t.queue a = { s.queue a with jobs := (s.queue a).jobs.filter (· != j), putback := some n } ∧
      (t.station u).lane = (s.station u).lane.filter (· != r.bin) ∧
      t.crane a = { s.crane a with
        state := .parking
        position := some pos
        load := true
        order := none
        acceptTimer := none
        restOutstanding := false
        restTimer := none } ∧
      t.svp.notices = s.svp.notices ++ [⟨.fetchFailed, r.bin, 0, 0⟩] ∧
      t.outputs = s.outputs ++ [.order a .park] ∧ t.fiu = s.fiu ∧ s.SameLending t)

/-- READY, PARKED, RESTED and FAULT (R81, R82, R85, R89, R96, R97). A DOWN crane that says READY is IDLE, or is
sent PARK where it may not work; PARKED and RESTED put the crane at the park position; a FAULT halts an IDLE
crane where the drive says and posts CRANE_FAULT. That a FAULT of kind 0 is taken as the kinds 1 to 255 are is the
model's choice (log 57), and that the halt stops the crane's timers its reading (log 19). -/
def Obligations.ReadyParkedRestedFault : Prop :=
  ∀ (a : Aisle) (s : State),
    let c := s.crane a
    (c.state = .down → c.resume = none → (s.zoneNormal a = false ∨ s.authority ≠ .library) →
      exec (.ready a) s = .next ((s.setCrane a { c with
        state := .parking
        fault := .none
        readyTimer := none
        restOutstanding := false
        restTimer := none }).send a .park)) ∧
    (c.state = .down → c.resume = none → s.zoneNormal a = true → s.authority = .library →
      (s.queue a).state = .stopped → s.rsc.settings.restIdle = 0 →
      exec (.ready a) s = .next (s.setCrane a { c with state := .idle, fault := .none, readyTimer := none })) ∧
    (c.state = .parking → (s.zone a.zone).parkTimer = none → s.canOrder a = false →
      exec (.parked a) s = .next (s.setCrane a { c with
        state := .parked, position := some parkPos, restTimer := none })) ∧
    (c.state = .idle → c.restOutstanding = true → c.resume = none → (s.queue a).state = .stopped →
      exec (.rested a) s = .next (s.setCrane a { c with
        state := .resting
        position := some parkPos
        restOutstanding := false
        restTimer := none })) ∧
    (∀ tag kind pos load, c.state = .idle →
      exec (.fault a tag kind pos load) s = .next ((s.setCrane a { c with
        state := .halted
        position := some pos
        load := load
        fault := .drive kind
        acceptTimer := none
        readyTimer := none
        restTimer := none
        clearSent := false }).post .craneFault a.val (5 * 65536 + kind.toNat) 0))

/-- The crane timers (R86, R96). Before its tick is reached an expiry says nothing (logs 5, 6). At it, the accept
timer halts the crane with NO_ACCEPT, the ready timer a DOWN crane with NO_READY, and the deadline with TIMEOUT,
each with CRANE_FAULT and the order's tag; the rest timer sends REST. That a halt stops the other timers is the
model's reading (log 19). -/
def Obligations.CraneTimersExpire : Prop :=
  ∀ (a : Aisle) (s : State) (d : Tick),
    let c := s.crane a
    let halted : CraneFault → Crane := fun f => { c with
      state := .halted, fault := f, acceptTimer := none, readyTimer := none, restTimer := none,
      clearSent := false }
    (c.state = .busy → c.acceptTimer = some d → Tick.reached d s.svp.tick = true → (s.queue a).state ≠ .stopping →
      exec (.acceptTimeout a) s = .next ((s.setCrane a (halted .noAccept)).post .craneFault a.val (1 * 65536)
        c.orderTag.toNat)) ∧
    (c.acceptTimer = some d → Tick.reached d s.svp.tick = false → exec (.acceptTimeout a) s = .next s) ∧
    (c.state = .down → c.readyTimer = some d → Tick.reached d s.svp.tick = true →
      exec (.readyTimeout a) s = .next ((s.setCrane a (halted .noReady)).post .craneFault a.val (2 * 65536) 0)) ∧
    (c.readyTimer = some d → Tick.reached d s.svp.tick = false → exec (.readyTimeout a) s = .next s) ∧
    (∀ o, c.state = .busy → c.order = some o → Tick.reached o.deadline s.svp.tick = true →
      (s.queue a).state ≠ .stopping →
      exec (.deadlineExpiry a) s = .next ((s.setCrane a (halted .timeout)).post .craneFault a.val (3 * 65536)
        o.tag.toNat)) ∧
    (∀ o, c.order = some o → Tick.reached o.deadline s.svp.tick = false →
      exec (.deadlineExpiry a) s = .next s) ∧
    (c.state = .idle → c.restTimer = some d → Tick.reached d s.svp.tick = true →
      exec (.restTimerExpiry a) s = .next ((s.setCrane a { c with
        restOutstanding := true, restTimer := none }).send a .rest)) ∧
    (c.restTimer = some d → Tick.reached d s.svp.tick = false → exec (.restTimerExpiry a) s = .next s)

/-! ### Stations and batches (chapter 6) -/

/-- OPEN_STATION and CLOSE_STATION (R105, R107) of a station other than S4, with no crane to be given work: OPEN;
CLOSED when its lane and positions are empty, otherwise DRAINING; in FIRE_HOLD the prior state changes. The
answer gives the state reached. An S4 with no bin that turns OPEN chooses its fill bins (R171): with none that
qualifies the no-qualifier flag is set; the only one that qualifies gets its entry, PLACED on a FETCH job of priority
2. A fill bin chosen is one that qualifies, of largest free capacity, and of equals that of lowest number. -/
def Obligations.StationsOpenAndClose : Prop :=
  (∀ (h : Hdr) (n : Nat) (s : State) (u : StationNo), Served h s → station? n = some u →
    let r := s.station u
    ((r.state = .normal .closed ∨ r.state = .normal .draining) → u ≠ fillStation → s.NoneAvailable →
      exec (.openStation h n) s =
        .next (State.answer (s.setStation u { r with state := .normal .opened }) h .done false [.num 1 1])) ∧
    (r.state = .normal .opened → exec (.openStation h n) s = .next (s.answer h .done false [.num 1 1])) ∧
    (∀ o, r.state = .fireHold o →
      exec (.openStation h n) s =
        .next (State.answer (s.setStation u { r with state := .fireHold .opened }) h .done false [.num 1 3])) ∧
    (r.state = .normal .opened → u ≠ fillStation → r.isClear = true →
      exec (.closeStation h n) s =
        .next (State.answer (s.setStation u { r with state := .normal .closed }) h .done false [.num 1 0])) ∧
    (r.state = .normal .opened → u ≠ fillStation → r.isClear = false →
      exec (.closeStation h n) s =
        .next (State.answer (s.setStation u { r with state := .normal .draining }) h .done false [.num 1 2])) ∧
    (∀ o, r.state = .fireHold o →
      exec (.closeStation h n) s = .next (State.answer
        (s.setStation u { r with state := .fireHold (if r.isClear then .closed else .draining) }) h .done false
        [.num 1 3])) ∧
    ((r.state = .normal .closed ∨ r.state = .normal .draining) → u = fillStation → s.NoneAvailable →
      (∀ p b, (s.position u p).content ≠ .bin b) → s.riu.fills = [] → Tab.wf s.rsc.bins →
      (s.bestFill = none → exec (.openStation h n) s = .next (State.answer
        { s.setStation u { r with state := .normal .opened } with riu.noQualifier := true } h .done false
        [.num 1 1])) ∧
      (∀ b x j, s.bestFill = some b → (∀ e ∈ s.rsc.bins, e.1 ≠ b → s.qualifies e.1 e.2 = false) →
        (s.bin b).state = .stored x → s.freeJob = some j → (s.queue x.aisle).used < 32 →
        ∃ t, exec (.openStation h n) s = .next t ∧
          t.riu = { fills := [{ bin := b, state := .placed }], noQualifier := true } ∧
          t.job j = some { kind := .fetch, aisle := some x.aisle, bin := b, source := .slot x,
                           dest := .station fillStation, priority := 2, enqueued := s.svp.tick, origin := .fill,
                           active := false } ∧
          (∀ i, i ≠ j → t.job i = s.job i) ∧
          t.queue x.aisle = { s.queue x.aisle with jobs := (s.queue x.aisle).jobs ++ [j] } ∧
          t.bin b = { s.bin b with owner := .job j } ∧ (∀ c, c ≠ b → t.bin c = s.bin c) ∧
          t.rsc.slots = s.rsc.slots ∧ (t.station u).state = .normal .opened ∧ t.clu = s.clu ∧
          t.cranes = s.cranes ∧ t.svp.notices = s.svp.notices ∧ t.outputs = s.outputs ∧
          t.svp.resp = some { tag := h.tag, code := .done, clamped := false, fields := [.num 1 1] }))) ∧
  (∀ s : State, Tab.wf s.rsc.bins →
    (∀ b, s.bestFill = some b → ∃ x, (s.bin b).state = .stored x ∧ s.zoneNormal x.aisle = true ∧
      (s.bin b).owner = .none ∧ s.oldestClaim b = none ∧ (s.bin b).climate = .general ∧
      (s.bin b).height = .standard ∧ (s.bin b).audit = false ∧ s.fillOf b = none ∧
      ∀ e ∈ s.rsc.bins, s.qualifies e.1 e.2 = true →
        e.2.free < (s.bin b).free ∨ (e.2.free = (s.bin b).free ∧ b ≤ e.1)) ∧
    (s.bestFill = none → ∀ e ∈ s.rsc.bins, s.qualifies e.1 e.2 = false))

/-- A release to storage at another station than S4 (R51, R113, R114): the wing search's slot is RESERVED for
the bin, which is RETURNING to that aisle with owner NONE, and the position is empty; with no slot the bin stays
and its position asks for attention. RELEASE_BIN answers STORING and the slot, or NO_SLOT; the release button
does the same for the bin that came first, and posts RELEASE_REFUSED when there is no slot. A bin with a claim
whose station is OPEN with lane room is transferred to it under a new ACTIVE FETCH (R50). At S4 the fill release of
an expired residence (R115, R172) stores the bin and removes its fill list entry (R170), or posts RELEASE_REFUSED
and restarts the timer. -/
def Obligations.ReleaseSendsTheBinToStorage : Prop :=
  (∀ (h : Hdr) (st po : Nat) (s : State) (u : StationNo) (p : Pos) (b : Nat), s.svp.mountState = .mounted →
    station? st = some u → pos? po = some p → (s.position u p).content = .bin b →
    (s.bin b).state = .presented u p → (s.station u).inHold = false → (s.station u).isDraining = false →
    u ≠ fillStation → s.oldestClaim b = none →
    (∀ x n, s.wingSearch (s.bin b).height (s.bin b).climate allAisles = some (x, n) →
      let gone := ((s.setBin b { s.bin b with
          state := .returning x.aisle (some x), owner := .none }).setSlot x
        { s.slot x with state := .reserved b }).setPosition u p Position.empty
      (Served h s → exec (.releaseBin h st po) s =
        .next (gone.answer h .done false [.num 1 5, .num 4 (slotArg x)])) ∧
      (s.pressed u = some (p, b) → exec (.releaseButton u) s = .next gone)) ∧
    (s.wingSearch (s.bin b).height (s.bin b).climate allAisles = none →
      let asks := s.setPosition u p { s.position u p with attention := true }
      (Served h s → exec (.releaseBin h st po) s = .next (asks.answer h .noSlot false [])) ∧
      (s.pressed u = some (p, b) → exec (.releaseButton u) s =
        .next (asks.post .releaseRefused (placeArg u p) 16 0)))) ∧
  (∀ (h : Hdr) (st po : Nat) (s : State) (u : StationNo) (p : Pos) (b j : Nat) (c : Claim), Served h s →
    station? st = some u → pos? po = some p → (s.position u p).content = .bin b →
    (s.bin b).state = .presented u p → (s.station u).inHold = false → (s.station u).isDraining = false →
    u ≠ fillStation → s.oldestClaim b = some c → c.claimant = .single → s.freeJob = some j →
    (s.station c.dest).isOpen = true → (s.station c.dest).lane.length < 4 → s.clu.claims = [c] →
    State.NothingWaits { s with clu.claims := [] } →
    ∃ t, exec (.releaseBin h st po) s = .next t ∧
      t.svp.resp = some { tag := h.tag, code := .done, clamped := false, fields := [.num 1 4, .num 1 c.dest.val] } ∧
      t.bin b = { s.bin b with state := .enRoute c.dest, owner := .job j } ∧ (∀ d, d ≠ b → t.bin d = s.bin d) ∧
      t.job j = some { kind := .fetch, aisle := none, bin := b, source := .transfer, dest := .station c.dest,
                       priority := c.priority, enqueued := c.placed, origin := .single, active := true } ∧
      (∀ i, i ≠ j → t.job i = s.job i) ∧ t.clu.claims = [] ∧ t.position u p = Position.empty ∧
      (t.station c.dest).lane = (s.station c.dest).lane ++ [b] ∧ t.rsc.slots = s.rsc.slots ∧
      t.cranes = s.cranes ∧ t.fiu = s.fiu ∧ t.svp.notices = s.svp.notices ∧ t.outputs = s.outputs ∧
      s.SameLending t) ∧
  (∀ (s : State) (p : Pos) (b : Nat) (d : Tick), (s.position fillStation p).content = .bin b →
    (s.bin b).state = .presented fillStation p → (s.station fillStation).state = .normal .closed →
    (s.position fillStation p).deadline = some d → Tick.reached d s.svp.tick = true → s.oldestClaim b = none →
    (∀ x n, s.wingSearch (s.bin b).height (s.bin b).climate allAisles = some (x, n) →
      exec (.residenceExpiry fillStation p) s = .next
        { ((s.setBin b { s.bin b with state := .returning x.aisle (some x), owner := .none }).setSlot x
            { s.slot x with state := .reserved b }).setPosition fillStation p Position.empty with
          riu.fills := s.riu.fills.filter (fun e => e.bin != b) }) ∧
    (s.wingSearch (s.bin b).height (s.bin b).climate allAisles = none →
      let asks : Position := { s.position fillStation p with attention := true }
      exec (.residenceExpiry fillStation p) s = .next
        (((s.setPosition fillStation p asks).post .releaseRefused (placeArg fillStation p) 16 0).setPosition
          fillStation p { asks with
            restart := some s.svp.tick
            deadline := some (s.svp.tick +
              BitVec.ofNat 32 (6000 * s.rsc.settings.station.residence[fillStation])) })))

/-- FETCH (R42, R117) of a target that resolves to a bin: ALREADY_THERE when it is PRESENTED at the station,
ON_ITS_WAY with the job that brings it there; QUEUED with a new job at the tail of its aisle's queue when it is
STORED, unowned and unclaimed; CLAIMED behind the claims already on it, whatever else its state and its owner.
Without LIBRARY authority it is refused. That an answer carries no CLAMPED indication of a clamped priority is the
model's choice (log 40). -/
def Obligations.FetchQueuesOrClaims : Prop :=
  ∀ (h : Hdr) (st prio b : Nat) (g : Target) (w : Wanted) (s : State) (u : StationNo), Served h s →
    station? st = some u → target? g = some w →
    (s.authority ≠ .library → exec (.fetch h st prio g) s = .next (s.answer h .noAuthority false [])) ∧
    (s.authority = .library → (s.station u).isOpen = true → u ≠ fillStation → s.resolveTarget w u = .ok b →
      (∀ p, (s.bin b).state = .presented u p →
        exec (.fetch h st prio g) s = .next (s.answer h .done false [.num 1 0])) ∧
      (∀ j r, (s.bin b).owner = .job j → s.job j = some r → r.dest = .station u →
        (∀ p, (s.bin b).state ≠ .presented u p) →
        exec (.fetch h st prio g) s = .next (s.answer h .done false [.num 1 1, .num 1 j])) ∧
      (∀ x j, (s.bin b).state = .stored x → (s.bin b).owner = .none → s.oldestClaim b = none →
        s.freeJob = some j → (s.queue x.aisle).used < 32 → (s.crane x.aisle).available = false →
        exec (.fetch h st prio g) s = .next (State.answer
          (((s.takeRecord j
              { kind := .fetch, aisle := some x.aisle, bin := b, source := .slot x, dest := .station u,
                priority := min prio 3, enqueued := s.svp.tick, origin := .single, active := false }).setOwner b
            (.job j)).enqueue x.aisle j) h .done false [.num 1 2, .num 1 j])) ∧
      (∀ x, (s.bin b).state = .stored x → (s.bin b).owner = .none → s.oldestClaim b ≠ none →
        s.clu.claims.length < 32 →
        exec (.fetch h st prio g) s = .next (State.answer
          { s with clu.claims := s.clu.claims ++
              [{ bin := b, claimant := .single, dest := u, priority := min prio 3, placed := s.svp.tick }] } h .done
          false [.num 1 3, .num 1 (s.claimsOn b).length])) ∧
      ((∀ p, (s.bin b).state ≠ .presented u p) →
        (∀ j r, (s.bin b).owner = .job j → s.job j = some r → r.dest ≠ .station u) →
        (∀ x, (s.bin b).state = .stored x → (s.bin b).owner ≠ .none) → s.clu.claims.length < 32 →
        exec (.fetch h st prio g) s = .next (State.answer
          { s with clu.claims := s.clu.claims ++
              [{ bin := b, claimant := .single, dest := u, priority := min prio 3, placed := s.svp.tick }] } h .done
          false [.num 1 3, .num 1 (s.claimsOn b).length])))

/-- FETCH_BATCH in BURST mode of one target (R119, R120): the batch record holds the entry, released and QUEUED,
and its job stands at the tail of the aisle's queue; the answer lists the entry states after their count, the
model's layout (log 9), and carries no CLAMPED indication of a clamped priority, the model's choice (log 40). In PACED
mode with two targets the first entry alone is released and QUEUED, and the second stays PENDING. CANCEL_BATCH
(R124) of an ACTIVE batch with no job and no
claim of its own: every outstanding entry is FAILED and the batch CANCELLED. -/
def Obligations.BatchesAreMadeAndCancelled : Prop :=
  (∀ (h : Hdr) (st prio b n j : Nat) (g : Target) (w : Wanted) (s : State) (u : StationNo) (x : SlotAddr),
    Served h s → station? st = some u → target? g = some w → s.authority = .library →
    (s.station u).isOpen = true → u ≠ fillStation → s.resolveTarget w u = .ok b → (s.bin b).state = .stored x →
    (s.bin b).owner = .none → s.oldestClaim b = none → s.freeJob = some j → (s.queue x.aisle).used < 32 →
    (s.crane x.aisle).available = false → s.batchRecord = some n →
    ∃ t, exec (.fetchBatch h st 0 prio [g]) s = .next t ∧
      t.svp.resp = some { tag := h.tag, code := .done, clamped := false, fields := [.num 1 n, .num 1 1, .num 1 2] } ∧
      t.batch n = some { station := u, mode := .burst, sequence := s.stu.batchSeq + 1, priority := min prio 3,
                         entries := [{ target := g, bin := some b, released := true, state := .queued }],
                         state := .active } ∧
      (∀ m, m ≠ n → t.batch m = s.batch m) ∧ t.stu.batchSeq = s.stu.batchSeq + 1 ∧
      t.job j = some { kind := .fetch, aisle := some x.aisle, bin := b, source := .slot x, dest := .station u,
                       priority := min prio 3, enqueued := s.svp.tick, origin := .batch n 0, active := false } ∧
      t.queue x.aisle = { s.queue x.aisle with jobs := (s.queue x.aisle).jobs ++ [j] } ∧
      t.bin b = { s.bin b with owner := .job j } ∧ (∀ c, c ≠ b → t.bin c = s.bin c) ∧
      t.rsc.slots = s.rsc.slots ∧ t.stu.stations = s.stu.stations ∧ t.clu = s.clu ∧ t.fiu = s.fiu ∧
      s.SameLending t) ∧
  (∀ (h : Hdr) (st prio b c n j : Nat) (g k : Target) (w v : Wanted) (s : State) (u : StationNo) (x : SlotAddr),
    Served h s → station? st = some u → target? g = some w → target? k = some v → s.authority = .library →
    (s.station u).isOpen = true → u ≠ fillStation → s.resolveTarget w u = .ok b → s.resolveTarget v u = .ok c →
    b ≠ c → (s.bin b).state = .stored x → (s.bin b).owner = .none → s.oldestClaim b = none →
    s.freeJob = some j → (s.queue x.aisle).used < 32 → (s.crane x.aisle).available = false →
    s.batchRecord = some n →
    ∃ t, exec (.fetchBatch h st 1 prio [g, k]) s = .next t ∧
      t.svp.resp = some { tag := h.tag, code := .done, clamped := false,
                          fields := [.num 1 n, .num 1 2, .num 1 2, .num 1 0] } ∧
      t.batch n = some { station := u, mode := .paced, sequence := s.stu.batchSeq + 1, priority := min prio 3,
                         entries := [{ target := g, bin := some b, released := true, state := .queued },
                                     { target := k, bin := some c, released := false, state := .pending }],
                         state := .active } ∧
      (∀ m, m ≠ n → t.batch m = s.batch m) ∧
      t.job j = some { kind := .fetch, aisle := some x.aisle, bin := b, source := .slot x, dest := .station u,
                       priority := min prio 3, enqueued := s.svp.tick, origin := .batch n 0, active := false } ∧
      (∀ i, i ≠ j → t.job i = s.job i) ∧
      t.queue x.aisle = { s.queue x.aisle with jobs := (s.queue x.aisle).jobs ++ [j] } ∧
      t.bin b = { s.bin b with owner := .job j } ∧ (∀ d, d ≠ b → t.bin d = s.bin d) ∧
      t.rsc.slots = s.rsc.slots ∧ t.stu.stations = s.stu.stations ∧ t.clu = s.clu ∧ t.fiu = s.fiu ∧
      s.SameLending t) ∧
  (∀ (h : Hdr) (n : Nat) (s : State) (r : Batch), Served h s → n < 8 → s.batch n = some r → r.state = .active →
    (∀ e ∈ s.dsp.jobs, ∀ i, e.2.origin ≠ .batch n i) → (∀ c ∈ s.clu.claims, ∀ i, c.claimant ≠ .batch n i) →
    exec (.cancelBatch h n) s = .next (State.answer (s.setBatch n { r with
      entries := r.entries.map (fun e => if e.state.outstanding then { e with state := .failed } else e)
      state := .cancelled }) h .done false [.num 1 0, .num 1 0, .num 1 0]))

/-- A station arrival delivers the EN_ROUTE bin of the lane (R43, R109, R110, R115): PRESENTED there with owner
STATION and its residence timer from now, its job ended and FETCH_ARRIVED posted, whether a crane has brought the bin
out (R88) or a direct transfer sends it (R50). A claim of a single request on the bin bound for the station is
satisfied with a FETCH_ARRIVED of its own, and one bound for another station stays (R43); the last outstanding entry
of a batch of the station is DELIVERED, and BATCH_DONE is posted (R121, R123). A bin bound for another station is
misrouted: presented with attention, its job ended with MISROUTED and FETCH_FAILED; an UNCERTAIN bin is found; and the
bin that a position recorded becomes UNCERTAIN with POSITION_CONFLICT when another arrives there (R111). At S5 the
page of the bin is delivered with PAGE_READY, whether the bin's job is its own or another's, and counts as delivered
in this stay (R154, log 53); that the PAGE_READY of a page which the bin's job does not carry stands behind the
FETCH_ARRIVED of that job is the model's choice (log 56). At S4 the bin of a fill fetch becomes a fill bin (R170), and
while S4 is OPEN the tray is drained into it (R173). An arrival without a readable label leaves the position UNKNOWN
with attention and a notice (R112). A residence expiry at another station than S4 asks for attention once (R115); one
without a running timer says nothing (log 6). The lamp changes phase when its time ends (R109), the new phase counted
from the command (log 30). Until mount has run, arrivals are kept (R104). -/
def Obligations.StationArrivals : Prop :=
  ∀ (u : StationNo) (p : Pos) (s : State),
    (∀ b j r, s.svp.mountState = .mounted → (s.bin b).state = .enRoute u → (s.bin b).owner = .job j →
      s.job j = some r → r.kind = .fetch → r.bin = b → r.dest = .station u → r.origin = .single →
      s.OutOfAisle j r → b ∈ (s.station u).lane → (s.position u p).content = .empty → u ≠ fillStation →
      (s.station u).isDraining = false → s.NothingWaits → s.NoneAvailable → s.svp.notices.length < 64 →
      ∃ t, exec (.stationArrival u p (some b)) s = .next t ∧
        t.bin b = { s.bin b with state := .presented u p, owner := .station u } ∧
        (∀ c, c ≠ b → t.bin c = s.bin c) ∧ t.position u p = s.freshPosition u b false ∧
        (t.station u).lane = (s.station u).lane.filter (· != b) ∧ t.job j = none ∧
        t.svp.notices = s.svp.notices ++ [⟨.fetchArrived, b, u.val * 256 + p.val, 0⟩] ∧
        t.dsp.queues = s.dsp.queues ∧
        t.rsc.slots = s.rsc.slots ∧ t.cranes = s.cranes ∧ t.fiu = s.fiu ∧ s.SameLending t) ∧
    (∀ b j r, s.svp.mountState = .mounted → (s.bin b).state = .enRoute u → (s.bin b).owner = .job j →
      s.job j = some r → r.kind = .fetch → r.bin = b → r.dest = .station u → s.OutOfAisle j r →
      b ∈ (s.station u).lane → (s.position u p).content = .empty → (s.station u).isDraining = false →
      State.NothingWaits { s with circ.pages := [], riu.fills := [], clu.claims := [], stu.batches := [] } →
      s.NoneAvailable → s.svp.notices.length < 63 →
      let served : State → Prop := fun t =>
        (∀ c, c ≠ b → t.bin c = s.bin c) ∧ t.position u p = s.freshPosition u b false ∧
        (t.station u).lane = (s.station u).lane.filter (· != b) ∧ t.job j = none ∧ t.dsp.queues = s.dsp.queues ∧
        t.rsc.slots = s.rsc.slots ∧ t.cranes = s.cranes ∧ t.fiu = s.fiu ∧ s.SameLending t
      let shown : Bin := { s.bin b with state := .presented u p, owner := .station u }
      (∀ c, u ≠ fillStation → r.origin = .single → s.circ.pages = [] → s.riu.fills = [] → s.stu.batches = [] →
        s.clu.claims = [c] → c.bin = b → c.claimant = .single →
        let arrived : Notice := ⟨.fetchArrived, b, u.val * 256 + p.val, 0⟩
        ∃ t, exec (.stationArrival u p (some b)) s = .next t ∧ served t ∧ t.bin b = shown ∧
          t.clu.claims = (if c.dest = u then [] else [c]) ∧ t.outputs = s.outputs ∧
          t.svp.notices = s.svp.notices ++ arrived :: (if c.dest = u then [arrived] else [])) ∧
      (∀ n q e, u ≠ fillStation → s.circ.pages = [] → s.riu.fills = [] → s.clu.claims = [] →
        s.stu.batches = [(n, q)] → q.station = u → q.state = .active → q.entries = [e] → e.bin = some b →
        e.state.outstanding = true → r.origin = .batch n 0 ∨ r.origin = .single →
        ∃ t, exec (.stationArrival u p (some b)) s = .next t ∧ served t ∧ t.bin b = shown ∧
          t.stu.batches = [(n, { q with entries := [{ e with state := .delivered }], state := .done })] ∧
          t.outputs = s.outputs ∧
          t.svp.notices = s.svp.notices ++
            (if r.origin = .single then [⟨.fetchArrived, b, u.val * 256 + p.val, 0⟩] else []) ++
            [⟨.batchDone, n * 65536 + u.val, 1, 0⟩]) ∧
      (∀ g, u = serviceStation → s.clu.claims = [] → s.stu.batches = [] → s.riu.fills = [] →
        s.circ.pages = [g] → g.bin = b →
        let ready : Notice := ⟨.pageReady, g.item, b, 5 * 256 + p.val⟩
        (r.origin = .page g.hold → g.state = .onJob j →
          ∃ t, exec (.stationArrival u p (some b)) s = .next t ∧ served t ∧ t.bin b = shown ∧
            t.circ.pages = [] ∧ (g.hold, b) ∈ t.circ.delivered ∧ t.svp.notices = s.svp.notices ++ [ready] ∧
            t.outputs = s.outputs) ∧
        (r.origin = .single →
          ∃ t, exec (.stationArrival u p (some b)) s = .next t ∧ served t ∧ t.bin b = shown ∧
            t.circ.pages = [] ∧ (g.hold, b) ∈ t.circ.delivered ∧ t.outputs = s.outputs ∧
            t.svp.notices = s.svp.notices ++ [⟨.fetchArrived, b, 5 * 256 + p.val, 0⟩, ready])) ∧
      (u = fillStation → r.origin = .fill → s.clu.claims = [] → s.stu.batches = [] → s.circ.pages = [] →
        s.riu.fills = [{ bin := b, state := .placed }] →
        let filled : State → Prop := fun t => served t ∧
          t.riu = { s.riu with fills := [{ bin := b, state := .presented p }] } ∧
          t.svp.notices = s.svp.notices
        ((s.station u).isOpen = false →
          ∃ t, exec (.stationArrival u p (some b)) s = .next t ∧ filled t ∧ t.bin b = shown ∧
            t.rsc.items = s.rsc.items ∧ t.rsc.tray = s.rsc.tray ∧ t.outputs = s.outputs) ∧
        (∀ acc it k, (s.station u).isOpen = true → s.frontNormal = true → s.rsc.tray = [acc] →
          s.item acc = some it → it.state = .inTray → s.firstWaiting it = none →
          (s.bin b).autoPlace it.thickness = some k →
          s.rsc.settings.station.fillThreshold = 0 →
          ∃ t, exec (.stationArrival u p (some b)) s = .next t ∧ filled t ∧ t.bin b = shown.add k it.thickness ∧
            t.item acc = some { it with state := .shelved b k } ∧ (∀ d, d ≠ acc → t.item d = s.item d) ∧
            t.rsc.tray = [] ∧ t.outputs = s.outputs ++ [.tray acc p k]))) ∧
    (∀ b j r v, s.svp.mountState = .mounted → (s.bin b).state = .enRoute v → v ≠ u → (s.bin b).owner = .job j →
      s.job j = some r → r.kind = .fetch → r.bin = b → r.dest = .station v → r.origin = .single →
      s.OutOfAisle j r → b ∉ (s.station u).lane → (s.position u p).content = .empty → u ≠ fillStation →
      (∀ w, (s.station w).isDraining = false) → s.NothingWaits → s.NoneAvailable → s.svp.notices.length < 63 →
      ∃ t, exec (.stationArrival u p (some b)) s = .next t ∧
        t.bin b = { s.bin b with state := .presented u p, owner := .station u } ∧
        (∀ c, c ≠ b → t.bin c = s.bin c) ∧ t.position u p = s.freshPosition u b true ∧
        (t.station v).lane = (s.station v).lane.filter (· != b) ∧ t.job j = none ∧
        t.svp.notices = s.svp.notices ++
          [⟨.misrouted, b, v.val, u.val * 256 + p.val⟩, ⟨.fetchFailed, b, 2, 0⟩] ∧
        t.dsp.queues = s.dsp.queues ∧
        t.rsc.slots = s.rsc.slots ∧ t.cranes = s.cranes ∧ t.fiu = s.fiu ∧ s.SameLending t) ∧
    (∀ b, s.svp.mountState = .mounted → (s.bin b).state = .uncertain → b ∉ (s.station u).lane →
      (∀ e, (s.position u p).content ≠ .bin e) → s.Quiet b → s.stu.batches = [] →
      exec (.stationArrival u p (some b)) s = .next
        ((((s.newStay b).setBin b { s.bin b with state := .presented u p, owner := .station u }).setPosition u p
          (s.freshPosition u b true)).post .binFound b (u.val * 256 + p.val) 0)) ∧
    (∀ b e, s.svp.mountState = .mounted → (s.position u p).content = .bin e → e ≠ b →
      (s.bin e).state = .presented u p → (s.bin e).owner = .station u → Tab.find s.clu.fireJobs e = none →
      (s.bin b).state = .uncertain → b ∉ (s.station u).lane → (∀ w, e ∉ (s.station w).lane) →
      (∀ c, e ∉ (s.crane c).buffer) → u ≠ fillStation → (s.station u).isDraining = false → s.NothingWaits →
      s.NoneAvailable → s.svp.notices.length < 63 →
      ∃ t, exec (.stationArrival u p (some b)) s = .next t ∧
        t.bin e = { s.bin e with state := .uncertain, owner := .none } ∧
        t.bin b = { s.bin b with state := .presented u p, owner := .station u } ∧
        (∀ c, c ≠ b → c ≠ e → t.bin c = s.bin c) ∧ t.position u p = s.freshPosition u b true ∧
        t.svp.notices = s.svp.notices ++ [⟨.positionConflict, u.val * 256 + p.val, e, b⟩,
          ⟨.binFound, b, u.val * 256 + p.val, 0⟩] ∧
        t.rsc.slots = s.rsc.slots ∧ t.dsp.jobs = s.dsp.jobs ∧ t.fiu = s.fiu ∧ s.SameLending t) ∧
    (s.svp.mountState = .mounted → (∀ b, (s.position u p).content ≠ .bin b) →
      exec (.stationArrival u p none) s = .next
        ((s.setPosition u p { s.position u p with
          content := .unknown, arrival := some s.svp.tick, attention := true }).post .positionUnknown
          (u.val * 256 + p.val) 4294967295 0)) ∧
    (∀ o, s.svp.mountState ≠ .mounted → s.svp.keptStation.length < 32 →
      exec (.stationArrival u p o) s = .next { s with
        svp.keptStation := s.svp.keptStation ++ [{ station := u, pos := p, bin := o }] }) ∧
    (∀ b d, u ≠ fillStation → (s.position u p).content = .bin b → (s.position u p).deadline = some d →
      Tick.reached d s.svp.tick = true →
      exec (.residenceExpiry u p) s = .next
        ((s.setPosition u p { s.position u p with
          deadline := none, attention := true, expiredInHold := false }).post .residence (u.val * 256 + p.val) b
          0)) ∧
    ((s.position u p).deadline = none → exec (.residenceExpiry u p) s = .next s) ∧
    (∀ d, (s.station u).lamp = .lit d → Tick.reached d s.svp.tick = true → (s.position u p).attention = true →
      exec (.lampPhase u) s = .next { s with stu.stations := s.stu.stations.set u { s.station u with
        lamp := .dark (s.svp.tick + BitVec.ofNat 32 s.rsc.settings.station.lampOff) } })

/-- A port arrival of a bin RETURNING with a reservation in the aisle (R59, R100), with a place in the buffer: it is
AT_PORT there, in the buffer, and owned by a new PUTAWAY of priority 2 for its reserved slot. Without a reservation an
aisle search gives it one, or PORT_MISROUTE is posted and the bin waits with no job (R100). While the zone is not
NORMAL the bin is FIRE-owned at the port with no job, in the buffer or, when that is full, on the overflow list; at a
full buffer of a NORMAL zone it joins the overflow list, the queue stops and PORT_OVERFILL is posted (R101), behind
the AISLE_STOPPED of a queue that was STOPPING (R64; that R63's overfill row names no notice: log 22). A label that
cannot be read is noticed and changes nothing else. Until mount has run, arrivals are kept (R101). -/
def Obligations.PortArrivals : Prop :=
  ∀ (a : Aisle) (s : State),
    let joined : Nat → Crane := fun b => { s.crane a with
      buffer := (s.crane a).buffer ++ [b]
      arrivals := (s.crane a).arrivals.filter (fun e => e.1 != b) ++ [(b, s.svp.tick)] }
    let putaway : Nat → SlotAddr → Job := fun b x =>
      { kind := .putaway, aisle := some a, bin := b, source := .port, dest := .slot x, priority := 2,
        enqueued := s.svp.tick, origin := .return, active := false }
    (∀ b c x j, s.svp.mountState = .mounted → (s.bin b).state = .returning c (some x) → x.aisle = a →
      b ∉ (s.crane a).buffer → b ∉ (s.crane a).overflow → (s.crane a).buffer.length < 2 →
      s.zoneNormal a = true → s.freeJob = some j → (s.queue a).used < 32 → (s.crane a).available = false →
      ∃ t, exec (.portArrival a (some b)) s = .next t ∧
        t.bin b = { s.bin b with state := .atPort a (some x), owner := .job j } ∧
        (∀ d, d ≠ b → t.bin d = s.bin d) ∧ t.crane a = joined b ∧ t.job j = some (putaway b x) ∧
        t.queue a = { s.queue a with jobs := (s.queue a).jobs ++ [j] } ∧ t.rsc.slots = s.rsc.slots ∧
        t.stu = s.stu ∧ t.clu = s.clu ∧ t.fiu = s.fiu ∧ t.outputs = s.outputs ∧
        t.svp.notices = s.svp.notices ∧ s.SameLending t) ∧
    (∀ b c, s.svp.mountState = .mounted → (s.bin b).state = .returning c none → b ∉ (s.crane a).buffer →
      b ∉ (s.crane a).overflow → (s.crane a).buffer.length < 2 → s.zoneNormal a = true →
      (∀ x j, s.aisleSearch (s.bin b).height (s.bin b).climate a = some x → s.freeJob = some j →
        (s.queue a).used < 32 → (s.crane a).available = false →
        ∃ t, exec (.portArrival a (some b)) s = .next t ∧
          t.bin b = { s.bin b with state := .atPort a (some x), owner := .job j } ∧
          (∀ d, d ≠ b → t.bin d = s.bin d) ∧ t.slot x = { s.slot x with state := .reserved b } ∧
          (∀ y, y ≠ x → t.slot y = s.slot y) ∧ t.crane a = joined b ∧ t.job j = some (putaway b x) ∧
          t.queue a = { s.queue a with jobs := (s.queue a).jobs ++ [j] } ∧ t.svp.notices = s.svp.notices) ∧
      (s.aisleSearch (s.bin b).height (s.bin b).climate a = none →
        exec (.portArrival a (some b)) s = .next (((s.setBin b { s.bin b with
          state := .atPort a none, owner := .none }).setCrane a (joined b)).post .portMisroute b a.val 0))) ∧
    (∀ b c x, s.svp.mountState = .mounted → (s.bin b).state = .returning c (some x) → x.aisle = a →
      b ∉ (s.crane a).buffer → b ∉ (s.crane a).overflow →
      let arrived : Owner → State := fun o => s.setBin b { s.bin b with state := .atPort a (some x), owner := o }
      let spilled : Crane := { s.crane a with overflow := (s.crane a).overflow ++ [b] }
      (s.zoneNormal a = false → exec (.portArrival a (some b)) s = .next ((arrived .fire).setCrane a
        (if (s.crane a).buffer.length < 2 then joined b else spilled))) ∧
      (s.zoneNormal a = true → 2 ≤ (s.crane a).buffer.length →
        let stopped := ((arrived .none).setCrane a spilled).setQueue a
          { s.queue a with state := .stopped, reason := some .overfill }
        exec (.portArrival a (some b)) s = .next (State.post
          (if (s.queue a).state = .stopping then stopped.post .aisleStopped a.val 1 0 else stopped)
          .portOverfill a.val b 0))) ∧
    (s.svp.mountState = .mounted →
      exec (.portArrival a none) s = .next (s.post .portUnreadable a.val 4294967295 0)) ∧
    (∀ o, s.svp.mountState ≠ .mounted → s.svp.keptPort.length < 32 →
      exec (.portArrival a o) s = .next { s with svp.keptPort := s.svp.keptPort ++ [{ aisle := a, bin := o }] })

/-! ### Borrowers, loans and the calendar (chapter 7) -/

/-- REGISTER_BORROWER (R128), SET_BORROWER (R129) and RETIRE_BORROWER (R130) answer by their tables, mount first
(R196); a record is created with the given class, the flag clear and both counts 0, changed in its class and
flag, or removed, and nothing else changes. -/
def Obligations.BorrowersAreRegisteredAndRetired : Prop :=
  ∀ (h : Hdr) (token cls : Nat) (blocked : Bool) (s : State), s.svp.resp = none → h.tag ≠ 0 → h.lengthOk = true →
    s.svp.mountState ≠ .recordFault →
    exec (.registerBorrower h token cls) s = .next (
      if s.svp.mountState = .mounting then s.answer h .mounting false []
      else if token = 0 ∨ 16777215 < token ∨ 3 < cls then s.answer h .badArgument false []
      else if s.borrower token ≠ none then s.answer h .duplicate false []
      else if 32768 ≤ s.rsc.borrowers.length then s.answer h .tableFull false []
      else State.answer (s.setBorrower token { cls := Fin.ofNat 4 cls, blocked := false, loans := 0, holds := 0 })
        h .done false []) ∧
    exec (.setBorrower h token cls blocked) s = .next (
      if s.svp.mountState = .mounting then s.answer h .mounting false []
      else if token = 0 ∨ 16777215 < token ∨ 3 < cls then s.answer h .badArgument false []
      else match s.borrower token with
        | none => s.answer h .unknown false []
        | some r => State.answer (s.setBorrower token { r with cls := Fin.ofNat 4 cls, blocked := blocked }) h
            .done false []) ∧
    ∃ t, exec (.retireBorrower h token) s = .next t ∧
      (if s.svp.mountState = .mounting then t = s.answer h .mounting false []
      else if token = 0 ∨ 16777215 < token then t = s.answer h .badArgument false []
      else match s.borrower token with
        | none => t = s.answer h .unknown false []
        | some r =>
          if 0 < r.loans ∨ 0 < r.holds then t = s.answer h .active false []
          else t.borrower token = none ∧ (∀ k, k ≠ token → t.borrower k = s.borrower k) ∧
            t = State.answer { s with rsc.borrowers := t.rsc.borrowers } h .done false [])

/-- SET_CALENDAR (R133) gives the days of its range their mark and leaves every other day; SET_DAY (R135) moves today
forward and starts the day turnover; TURNOVER_EXAMINATION (R136) passes over a record that does not expire, ends the
turnover after the last with the loans then overdue, and expires the READY hold of a HOLD_SHELF item (R160): the next
hold, WAITING, becomes READY at the same desk station, or the item with no other hold is AT_DESK at S5. That one
command examines one record number, and the one that examines the last number ends the turnover, is the model's choice
(log 33); without a turnover it says nothing (log 6). -/
def Obligations.CalendarDayAndTurnover : Prop :=
  (∀ (h : Hdr) (first count mark : Nat) (s : State), Served h s → 1 ≤ count → count ≤ 64 → first ≤ 65534 →
    mark ≤ 1 → s.rsc.calBase ≤ first → first + count ≤ s.rsc.calBase + 512 →
    (mark = 1 → s.runLength first count < 32) →
    ∃ t, exec (.setCalendar h first count mark) s = .next t ∧
      t = State.answer { s with rsc.closedDays := t.rsc.closedDays } h .done false [] ∧
      ∀ d, t.isClosed d = if first ≤ d ∧ d < first + count then decide (mark = 1) else s.isClosed d) ∧
  (∀ (h : Hdr) (day : Nat) (s : State), Served h s →
    (65534 < day → exec (.setDay h day) s = .next (s.answer h .badArgument false [])) ∧
    (day ≤ 65534 → day ≤ s.rsc.today → exec (.setDay h day) s = .next (s.answer h .backward false [])) ∧
    (day ≤ 65534 → s.rsc.today < day → s.svp.longOp ≠ none →
      exec (.setDay h day) s = .next (s.answer h .busy false [])) ∧
    (day ≤ 65534 → s.rsc.today < day → s.svp.longOp = none →
      exec (.setDay h day) s = .next (State.answer { s with
        svp.longOp := some .turnover
        rsc.today := day
        circ.turnover := some { day := day, cursor := 0, expired := 0 } } h .started false []))) ∧
  (∀ s : State, s.circ.turnover = none → exec .turnoverExamination s = .next s) ∧
  (∀ (s : State) (u : Turnover), s.circ.turnover = some u →
    (∀ r, s.hold u.cursor = some r → r.expires u.day = none) →
    (u.cursor < 16383 → exec .turnoverExamination s =
      .next { s with circ.turnover := some { u with cursor := u.cursor + 1 } }) ∧
    (16383 ≤ u.cursor → exec .turnoverExamination s =
      .next (State.post { s with circ.turnover := none, svp.longOp := none } .turnoverDone u.day
        (s.rsc.loans.filter (fun e => decide (e.2.due < u.day))).length u.expired))) ∧
  (∀ (s : State) (u : Turnover) (r : Hold) (e : Nat) (it : Item), s.circ.turnover = some u → u.cursor < 16383 →
    s.hold u.cursor = some r → r.state = .ready e → e < u.day → s.item r.item = some it →
    (∃ d, it.state = .holdShelf d) → it.queue = [u.cursor] → s.circ.pages = [] → s.svp.notices.length < 64 →
    ∃ t, exec .turnoverExamination s = .next t ∧ t.hold u.cursor = none ∧
      (∀ n, n ≠ u.cursor → t.hold n = s.hold n) ∧
      t.item r.item = some { it with state := .atDesk serviceStation, queue := [] } ∧
      (∀ n, n ≠ r.item → t.item n = s.item n) ∧
      t.svp.notices = s.svp.notices ++ [⟨.holdExpired, r.item, r.borrower, e⟩] ∧
      t.circ.turnover = some { u with cursor := u.cursor + 1, expired := u.expired + 1 } ∧
      t.borrower r.borrower = (s.borrower r.borrower).map (fun w => { w with holds := w.holds - 1 }) ∧
      (∀ k, k ≠ r.borrower → t.borrower k = s.borrower k) ∧
      t.rsc.loans = s.rsc.loans ∧ t.rsc.bins = s.rsc.bins ∧ t.dsp = s.dsp ∧ t.stu = s.stu ∧ t.fiu = s.fiu) ∧
  (∀ (s : State) (u : Turnover) (r q : Hold) (e m : Nat) (it : Item) (w : Borrower) (d : StationNo) (rest : List Nat),
    s.circ.turnover = some u → u.cursor < 16383 → u.day = s.rsc.today → s.hold u.cursor = some r →
    r.state = .ready e → e < u.day → s.item r.item = some it → it.state = .holdShelf d →
    it.queue = u.cursor :: m :: rest → u.cursor ∉ m :: rest → s.hold m = some q → q.state = .waiting →
    s.borrower q.borrower = some w → s.circ.pages = [] → s.svp.notices.length < 63 →
    let day := min (u.day + (s.policyRow w.cls).pickupDays) 65535
    ∃ t, exec .turnoverExamination s = .next t ∧ t.hold u.cursor = none ∧
      t.hold m = some { q with state := .ready day } ∧ (∀ n, n ≠ u.cursor → n ≠ m → t.hold n = s.hold n) ∧
      t.item r.item = some { it with queue := m :: rest } ∧ (∀ n, n ≠ r.item → t.item n = s.item n) ∧
      t.svp.notices = s.svp.notices ++ [⟨.holdExpired, r.item, r.borrower, e⟩,
        ⟨.holdReady, r.item, q.borrower, d.val * 65536 + day⟩] ∧
      t.circ.turnover = some { u with cursor := u.cursor + 1, expired := u.expired + 1 } ∧
      t.borrower r.borrower = (s.borrower r.borrower).map (fun w => { w with holds := w.holds - 1 }) ∧
      (∀ k, k ≠ r.borrower → t.borrower k = s.borrower k) ∧
      t.rsc.loans = s.rsc.loans ∧ t.rsc.bins = s.rsc.bins ∧ t.dsp = s.dsp ∧ t.stu = s.stu ∧ t.fiu = s.fiu)

/-- SET_CALENDAR_BASE (R134): the refusals in their order, mount first (R196); the base of the window itself
changes nothing; otherwise a day is closed afterwards exactly when it was closed and is not below the new base,
and the base is the new one. -/
def Obligations.CalendarBaseKeepsTheMarks : Prop :=
  ∀ (h : Hdr) (n : Nat) (s : State), s.svp.resp = none → h.tag ≠ 0 → h.lengthOk = true →
    s.svp.mountState ≠ .recordFault →
    (s.svp.mountState = .mounting →
      exec (.setCalendarBase h n) s = .next (s.answer h .mounting false [])) ∧
    (s.svp.mountState = .mounted →
      (65023 < n → exec (.setCalendarBase h n) s = .next (s.answer h .badArgument false [])) ∧
      (n ≤ 65023 → n < s.rsc.calBase → exec (.setCalendarBase h n) s = .next (s.answer h .backward false [])) ∧
      (n ≤ 65023 → n = s.rsc.calBase → exec (.setCalendarBase h n) s = .next (s.answer h .done false [])) ∧
      (n ≤ 65023 → s.rsc.calBase < n →
        ∃ t, exec (.setCalendarBase h n) s = .next t ∧
          t = State.answer { s with rsc.closedDays := t.rsc.closedDays, rsc.calBase := n } h .done false [] ∧
          (∀ d, t.isClosed d = (s.isClosed d && decide (n ≤ d))) ∧
          (∀ d, n ≤ d → d ≤ s.rsc.calBase + 511 → t.isClosed d = s.isClosed d) ∧
          (∀ d, max n (s.rsc.calBase + 512) ≤ d → d ≤ n + 511 → t.isClosed d = false) ∧
          (∀ d, d < n → t.isClosed d = false) ∧
          (s.rsc.calBase + 512 ≤ n → ∀ d, t.isClosed d = false)))

/-- The due-day arithmetic (R132, R137): the first open day not earlier than a day is open, is not earlier, and
passes over closed days only; the due day is that of the raw day, capped when a cap day later than today holds
back a later raw day; and with a loan period of at least 1 it is later than today. The recall arithmetic (R156): the
target is the later of the recall day plus the grace and the checkout day plus the minimum loan, at most 65,535; the
first open day from the target replaces a later due day and leaves one that is not later; with a minimum loan of at
least 1 a due day later than the checkout day stays later than it. -/
def Obligations.DueDaysFallOnOpenDays : Prop :=
  (∀ (s : State) (d : Nat), s.isClosed (s.firstOpen d) = false ∧ d ≤ s.firstOpen d ∧
    ∀ e, d ≤ e → e < s.firstOpen d → s.isClosed e = true) ∧
  (∀ (s : State) (today : Nat) (c : Fin 4) (k : ItemClass), k = .general ∨ k = .short → today < 65535 →
    let L := if k = .general then (s.policyRow c).generalDays else (s.policyRow c).shortDays
    let cap := (s.policyRow c).capDay
    let raw := min (today + L) 65535
    let day := if cap ≠ 0 ∧ today < cap ∧ cap < raw then cap else raw
    s.dueDay today c k = s.firstOpen day ∧ (1 ≤ L → today < s.dueDay today c k)) ∧
  (∀ (s : State) (day : Nat) (r : Loan),
    let target := min (max (day + s.rsc.settings.recalls.grace) (r.checkout + s.rsc.settings.recalls.minLoan)) 65535
    s.recallDay day r = (if s.firstOpen target < r.due then s.firstOpen target else r.due) ∧
    (1 ≤ s.rsc.settings.recalls.minLoan → r.checkout < 65535 → r.checkout < r.due → r.checkout < s.recallDay day r))

/-- CHECKOUT (R139, R140) of an item AT_DESK with no holds to an unblocked borrower below the limit: a loan
record of the lowest free number, due by R137, the item ON_LOAN, the loan count up by 1. RENEW (R141): a later
due day and one renewal more; NO_EXTENSION when the day would not be later. RETURN_AT_DESK (R142, R143) with no
hold: the loan goes, RETURNED is posted with the overdue days, and the item is AT_DESK at S5. That a flag is sent
as a byte 0 or 1, the last field of CHECKOUT's answer, is the model's choice (log 9). -/
def Obligations.LoansAreMadeRenewedAndClosed : Prop :=
  (∀ (h : Hdr) (cs : List Byte) (token acc : Nat) (s : State) (it : Item) (w : Borrower) (u : StationNo),
    Served h s → 1 ≤ token → token ≤ 16777215 → accession? cs = some acc → s.item acc = some it →
    it.state = .atDesk u → it.queue = [] → it.cls.lendable = true → s.borrower token = some w →
    w.blocked = false → w.loans < (s.policyRow w.cls).maxLoans → s.rsc.loans.length < 65536 →
    let n := Tab.lowestFree s.rsc.loans 0
    let due := s.dueDay s.rsc.today w.cls it.cls
    exec (.checkout h cs token) s = .next (State.answer
      (((s.setLoan n { item := acc, borrower := token, checkout := s.rsc.today, due := due, renewals := 0,
                       recalled := false }).setItem acc { it with state := .onLoan n }).setBorrower token
        { w with loans := w.loans + 1 }) h .done false [.num 2 n, .num 2 due, .num 1 0])) ∧
  (∀ (h : Hdr) (cs : List Byte) (acc n : Nat) (s : State) (it : Item) (r : Loan) (w : Borrower), Served h s →
    accession? cs = some acc → s.item acc = some it → it.state = .onLoan n → s.loan n = some r →
    s.borrower r.borrower = some w →
    let due := s.dueDay s.rsc.today w.cls it.cls
    (s.hasWaiting it = true → exec (.renew h cs) s = .next (s.answer h .holds false [])) ∧
    (s.hasWaiting it = false → r.recalled = true →
      exec (.renew h cs) s = .next (s.answer h .recalled false [])) ∧
    (s.hasWaiting it = false → r.recalled = false → r.renewals < (s.policyRow w.cls).maxRenewals →
      w.blocked = false →
      exec (.renew h cs) s = .next (if due ≤ r.due then s.answer h .noExtension false []
        else State.answer (s.setLoan n { r with due := due, renewals := r.renewals + 1 }) h .done false
          [.num 2 due, .num 1 (r.renewals + 1)])) ∧
    (s.firstWaiting it = none →
      exec (.returnAtDesk h cs) s = .next (State.answer
        ((((s.delLoan n).setBorrower r.borrower { w with loans := w.loans - 1 }).post .returned acc r.borrower
          (s.rsc.today - r.due)).setItem acc { it with state := .atDesk serviceStation }) h .done false
        [.num 2 (s.rsc.today - r.due), .num 1 1])))

/-- The loan queries (R144, R145, R146). The loan found meets the condition, no other that does falls due
earlier, and of those that fall due on the same day none has a lower number. EARLIEST_DUE over all loans changes
nothing but the answer. LIST_LOANS START of the overdue loans gives the first 8 and writes the listing cursor, at the
last loan of the page when more follow and absent otherwise, and nothing else; a NEXT without a listing is refused.
BORROWER_INFO, LOAN_INFO and CALENDAR_INFO answer from the records and change nothing (layout of the fields: log 9).
EARLIEST_DUE by borrower or class, the BORROWER listing and a NEXT with a listing are not stated here. -/
def Obligations.LoanQueries : Prop :=
  (∀ (s : State) (f : Loan → Bool), Tab.wf s.rsc.loans →
    (∀ n r, s.earliest f = some (n, r) → (n, r) ∈ s.rsc.loans ∧ f r = true ∧
      ∀ m q, (m, q) ∈ s.rsc.loans → f q = true → r.due < q.due ∨ (r.due = q.due ∧ n ≤ m)) ∧
    (s.earliest f = none → ∀ e ∈ s.rsc.loans, f e.2 = false)) ∧
  (∀ (h : Hdr) (s : State), Served h s →
    exec (.earliestDue h 0 none) s = .next (
      match s.earliest (fun _ => true) with
      | some (n, r) => s.answer h .done false [.num 2 n, accField r.item, .num 3 r.borrower, .num 2 r.due]
      | none => s.answer h .done false [.num 1 9]) ∧
    (∀ k a, 3 ≤ k → exec (.earliestDue h k a) s = .next (s.answer h .badArgument false [])) ∧
    (let all := s.rsc.loans.filter (fun e => decide (e.2.due < s.rsc.today))
      let page := all.take 8
      exec (.listLoans h (.start 1 none)) s = .next (State.answer { s with
        circ.listing := if 8 < all.length then (page.getLast?).map (fun e => ⟨.overdue, e.1⟩) else none } h .done
        false (listFields page (fun e => e.2.listFields e.1) ++ [.num 1 (if 8 < all.length then 10 else 11)]))) ∧
    (s.circ.listing = none → exec (.listLoans h .next) s = .next (s.answer h .noListing false [])) ∧
    (∀ token w, 1 ≤ token → token ≤ 16777215 → s.borrower token = some w →
      exec (.borrowerInfo h token) s = .next (s.answer h .done false
        ([.num 3 token, .num 1 w.cls.val, flagField w.blocked, .num 1 w.loans, .num 1 w.holds] ++
          (s.policyRow w.cls).fields))) ∧
    (∀ n r, n < 65536 → s.loan n = some r →
      exec (.loanInfo h n) s = .next (s.answer h .done false
        [.num 2 n, .num 1 1, accField r.item, .num 3 r.borrower, .num 2 r.checkout, .num 2 r.due,
         .num 1 r.renewals, flagField r.recalled])) ∧
    (∀ first count, 1 ≤ count → count ≤ 64 → first + count ≤ 65536 →
      exec (.calendarInfo h first count) s = .next (s.answer h .done false
        ([.num 2 s.rsc.calBase, .num 2 s.rsc.today] ++
          (List.range' first count).map (fun d => flagField (s.isClosed d))))))

/-! ### Holds (chapter 8) and returns (chapter 9) -/

/-- PLACE_HOLD (R151, R152): a WAITING hold of the lowest free number joins the tail of the item's queue and the hold
count rises by 1; the first hold of an ON_LOAN item recalls the loan (R156), whose due day falls to the recalled one
(its arithmetic: `DueDaysFallOnOpenDays`);
an IN_TRAY item leaves the tray for the hold shelf of S4, and its first hold becomes READY (R158).
The first hold of a SHELVED item gets a page (R153): delivered at once when the bin is presented at S5 (its state is
then absent from the answer, log 25), sharing a job that brings the bin to S5, on a new FETCH job of priority 1 for a
STORED bin that is unowned and unclaimed, or else on a claim. While a page stands, or the first hold's was delivered
and the bin is still at S5 (R154, log 53), another hold is only QUEUED. CANCEL_HOLD (R159) of a WAITING hold with no
page, of an item outside the rack, takes it out again; with its page the claim or the QUEUED job that carries the page
is withdrawn too (R155). Of a READY hold it passes the line on: the next hold becomes READY at the same desk station,
or the item with no hold left is AT_DESK at S5. HOLD_INFO (R161) changes nothing (layout of the fields: log 9). -/
def Obligations.HoldsJoinAndLeaveTheLine : Prop :=
  ∀ (h : Hdr) (cs : List Byte) (token acc : Nat) (s : State) (it : Item) (w : Borrower), Served h s →
    1 ≤ token → token ≤ 16777215 → accession? cs = some acc → s.item acc = some it → it.cls.lendable = true →
    s.borrower token = some w →
    let n := Tab.lowestFree s.rsc.holds 0
    let joined := ((s.setHold n { item := acc, borrower := token, placed := s.rsc.today, state := .waiting }).setItem
      acc { it with queue := it.queue ++ [n] }).setBorrower token { w with holds := w.holds + 1 }
    (w.blocked = false → w.holds < (s.policyRow w.cls).maxHolds → it.queue.length < 8 → s.holdOf it token = none →
      s.rsc.holds.length < 16384 →
      (∀ u, it.state = .atDesk u ∨ it.state = .holdShelf u ∨ it.state = .missing →
        exec (.placeHold h cs token) s = .next (joined.answer h .done false
          [.num 1 2, .num 2 n, .num 1 (it.queue.length + 1)])) ∧
      (∀ k r, it.state = .onLoan k → s.loan k = some r → r.borrower ≠ token → it.queue = [] →
        let day := s.recallDay s.rsc.today r
        exec (.placeHold h cs token) s = .next (State.answer
          ((joined.setLoan k { r with due := day, recalled := true }).post .recalled r.item r.borrower day) h .done
          false [.num 1 6, .num 2 day, .num 2 n, .num 1 1]) ∧ day ≤ r.due) ∧
      (∀ b k, it.state = .shelved b k → it.queue = [] → (∀ g ∈ s.circ.pages, g.item ≠ acc ∧ g.hold ≠ n) →
        let page : PageState → List Page := fun st =>
          s.circ.pages ++ [{ hold := n, item := acc, bin := b, state := st }]
        let answered : State → Field → Out := fun v f =>
          .next (v.answer h .done false [.num 1 7, f, .num 2 n, .num 1 1])
        (∀ p, (s.bin b).state = .presented serviceStation p → exec (.placeHold h cs token) s =
          answered { joined.post .pageReady acc b (5 * 256 + p.val) with
            circ.delivered := s.circ.delivered.erase (n, b) ++ [(n, b)] } (.absent 1)) ∧
        ((∀ p, (s.bin b).state ≠ .presented serviceStation p) →
          (∀ j r, (s.bin b).owner = .job j → s.job j = some r → r.dest = .station serviceStation →
            exec (.placeHold h cs token) s = answered { joined with circ.pages := page (.shared j) } (.num 1 1)) ∧
          (∀ x j, (s.bin b).state = .stored x → (s.bin b).owner = .none → s.oldestClaim b = none →
            s.freeJob = some j → (s.queue x.aisle).used < 32 → (s.crane x.aisle).available = false →
            exec (.placeHold h cs token) s = answered
              { ((joined.takeRecord j
                  { kind := .fetch, aisle := some x.aisle, bin := b, source := .slot x,
                    dest := .station serviceStation, priority := 1, enqueued := s.svp.tick, origin := .page n,
                    active := false }).setOwner b (.job j)).enqueue x.aisle j with
                circ.pages := page (.onJob j) } (.num 1 1)) ∧
          ((s.bin b).state ≠ .unused → (s.bin b).state ≠ .uncertain →
            (∀ j r, (s.bin b).owner = .job j → s.job j = some r → r.dest ≠ .station serviceStation) →
            (∀ x, (s.bin b).state = .stored x → (s.bin b).owner ≠ .none ∨ s.oldestClaim b ≠ none) →
            s.clu.claims.length < 32 →
            exec (.placeHold h cs token) s = answered { joined with
              clu.claims := s.clu.claims ++
                [{ bin := b, claimant := .page n, dest := serviceStation, priority := 1, placed := s.svp.tick }]
              circ.pages := page .onClaim } (.num 1 1)))) ∧
      (∀ m q z, it.state = .inTray → (it.queue ++ [n]).head? = some m → joined.hold m = some q → q.state = .waiting →
        joined.borrower q.borrower = some z →
        let day := min (s.rsc.today + (s.policyRow z.cls).pickupDays) 65535
        exec (.placeHold h cs token) s = .next (State.answer
          ((((State.setHold { joined with rsc.tray := s.rsc.tray.filter (· != acc) } m
            { q with state := .ready day }).setItem acc
            { it with queue := it.queue ++ [n], state := .holdShelf fillStation }).post .holdReady acc q.borrower
            (4 * 65536 + day))) h .done false
          [.num 1 8, .num 2 day, .num 2 n, .num 1 (it.queue.length + 1)])) ∧
      (∀ b k, it.state = .shelved b k →
        (∃ g ∈ s.circ.pages, g.item = acc) ∨ (∃ m p, it.queue.head? = some m ∧ (m, b) ∈ s.circ.delivered ∧
          (s.bin b).state = .presented serviceStation p) →
        exec (.placeHold h cs token) s = .next (joined.answer h .done false
          [.num 1 2, .num 2 n, .num 1 (it.queue.length + 1)]))) ∧
    (∀ k r, s.holdOf it token = some (k, r) →
      (r.state = .waiting → r.item = acc → r.borrower = token → s.pageOf k = none →
        (∀ b c, it.state ≠ .shelved b c) →
        exec (.cancelHold h cs token) s = .next (State.answer
          ((State.setBorrower { s.delHold k with circ.delivered := s.circ.delivered.filter (fun e => e.1 != k) }
            token { w with holds := w.holds - 1 }).setItem acc { it with queue := it.queue.filter (· != k) }) h .done
            false [.num 1 0])) ∧
      (∀ e d rest, r.state = .ready e → r.item = acc → r.borrower = token → it.state = .holdShelf d →
        s.pageOf k = none → it.queue = k :: rest → k ∉ rest →
        let left := (State.setBorrower { s.delHold k with
          circ.delivered := s.circ.delivered.filter (fun e => e.1 != k) } token { w with
          holds := w.holds - 1 }).setItem acc { it with queue := rest }
        (rest = [] → exec (.cancelHold h cs token) s = .next (State.answer
          (left.setItem acc { it with queue := [], state := .atDesk serviceStation }) h .done false [.num 1 1])) ∧
        (∀ m q z, rest.head? = some m → s.hold m = some q → q.state = .waiting → left.borrower q.borrower = some z →
          let day := min (s.rsc.today + (s.policyRow z.cls).pickupDays) 65535
          exec (.cancelHold h cs token) s = .next (State.answer
            (((left.setHold m { q with state := .ready day }).setItem acc
              { it with queue := rest, state := .holdShelf d }).post .holdReady acc q.borrower
              (d.val * 65536 + day)) h .done false [.num 1 1]))) ∧
      (∀ b m g, r.state = .waiting → r.item = acc → r.borrower = token → it.state = .shelved b m → it.queue = [k] →
        s.circ.pages = [g] → g.hold = k → State.NothingWaits { s with circ.pages := [], clu.claims := [] } →
        let gone : State → Prop := fun t =>
          t.hold k = none ∧ (∀ i, i ≠ k → t.hold i = s.hold i) ∧ t.item acc = some { it with queue := [] } ∧
          (∀ d, d ≠ acc → t.item d = s.item d) ∧ t.borrower token = some { w with holds := w.holds - 1 } ∧
          t.circ.pages = [] ∧ t.clu.claims = [] ∧ t.rsc.slots = s.rsc.slots ∧ t.svp.notices = s.svp.notices ∧
          t.outputs = s.outputs ∧
          t.svp.resp = some { tag := h.tag, code := .done, clamped := false, fields := [.num 1 0] }
        (∀ c, g.state = .onClaim → s.clu.claims = [c] → c.claimant = .page k →
          ∃ t, exec (.cancelHold h cs token) s = .next t ∧ gone t ∧ t.dsp = s.dsp ∧ t.rsc.bins = s.rsc.bins) ∧
        (∀ j q a, g.state = .onJob j → s.clu.claims = [] → s.job j = some q → q.active = false → q.kind = .fetch →
          q.origin = .page k → q.aisle = some a → q.dest = .station serviceStation →
          (s.bin q.bin).owner = .job j → j ∈ (s.queue a).jobs → (s.queue a).putback ≠ some j →
          ∃ t, exec (.cancelHold h cs token) s = .next t ∧ gone t ∧ t.job j = none ∧
            (∀ i, i ≠ j → t.job i = s.job i) ∧
            t.queue a = { s.queue a with jobs := (s.queue a).jobs.filter (· != j) } ∧
            t.bin q.bin = { s.bin q.bin with owner := .none } ∧ ∀ d, d ≠ q.bin → t.bin d = s.bin d)) ∧
      exec (.holdInfo h cs token) s = .next (s.answer h .done false
        ([.num 2 k, accField acc, .num 3 r.borrower, .num 2 r.placed] ++ r.state.fields ++
          [.num 1 (it.queue.findIdx (· = k) + 1)] ++ pageFields (s.pageOf k))))

/-- SCAN (R164, R165, R166) and the tray (R167, R168). A scan while returns are shut, an invalid label, an unknown
item or one that is not lent by scan goes to the exception exit with its reason. An item on the tray, on a hold shelf
or SHELVED in a fill bin presented at S4 is diverted to the place it has. Any other item leaves its place first: a loan
is closed (R142), an item SHELVED elsewhere, with no page, leaves its compartment with FOUND_ELSEWHERE, and a MISSING
one is noticed with ITEM_FOUND. It is then routed: with a first hold WAITING to the hold shelf of S4, the hold READY
(R158); else into the place found in a fill bin presented at S4 (R28), where no free capacity releases the bin (R172);
else to the tray's tail while it has room; else to the staff bench, AT_DESK at S5, with TRAY_FULL. TRAY_REMOVE takes an
item off the tray to a desk; TRAY_INFO sends each item of the tray in order, with its thickness and its number of
holds, behind a byte with their number, the model's layout of a list (log 9). -/
def Obligations.ScansAndTheTray : Prop :=
  (∀ (l : Option (List Byte × BitVec 16)) (s : State),
    let read := l.bind (fun e => label? e.1 e.2)
    let bench : State → Nat → Option Nat → State := fun u reason acc =>
      (u.sendDivert .exception).post .returnException reason (acc.getD 4294967295) 0
    (s.scanStopped = true → exec (.scan l) s = .next (bench s 255 read)) ∧
    (s.scanStopped = false → read = none → exec (.scan l) s = .next (bench s 78 none)) ∧
    (∀ acc, s.scanStopped = false → read = some acc → s.item acc = none →
      exec (.scan l) s = .next (bench s 46 (some acc))) ∧
    (∀ acc it, s.scanStopped = false → read = some acc → s.item acc = some it →
      (it.cls.lendable = false → exec (.scan l) s = .next (bench s 254 (some acc))) ∧
      (it.cls.lendable = true → it.state = .inTray → exec (.scan l) s = .next (s.sendDivert .tray)) ∧
      (∀ d, it.cls.lendable = true → it.state = .holdShelf d → exec (.scan l) s = .next (s.sendDivert .holds)) ∧
      (∀ b k p, it.cls.lendable = true → it.state = .shelved b k → s.fillOf b = some ⟨b, .presented p⟩ →
        exec (.scan l) s = .next (s.sendDivert (.fill p k))) ∧
      (∀ u : State, it.cls.lendable = true →
        ((∃ d, it.state = .atDesk d) ∧ u = s) ∨
        (∃ n r w, it.state = .onLoan n ∧ s.loan n = some r ∧ s.borrower r.borrower = some w ∧
          u = ((s.delLoan n).setBorrower r.borrower { w with loans := w.loans - 1 }).post .returned acc r.borrower
            (s.rsc.today - r.due)) ∨
        (∃ b k, it.state = .shelved b k ∧ (∀ p, s.fillAt b p = false) ∧ (∀ g ∈ s.circ.pages, g.item ≠ acc) ∧
          u = ((s.setItem acc { it with state := .missing }).setBin b ((s.bin b).take k it.thickness)).post
            .foundElsewhere acc (b * 65536 + k.val) 0) ∨
        (it.state = .missing ∧ u = s.post .itemFound acc 0 0) →
        (∀ n r w, s.firstWaiting it = some (n, r) → u.borrower r.borrower = some w →
          let day := min (s.rsc.today + (s.policyRow w.cls).pickupDays) 65535
          exec (.scan l) s = .next ((((u.sendDivert .holds).setHold n { r with state := .ready day }).setItem acc
            { it with state := .holdShelf fillStation }).post .holdReady acc r.borrower (4 * 65536 + day))) ∧
        (∀ p b k, s.firstWaiting it = none → s.fillPlace it.thickness = some (p, b, k) →
          s.rsc.settings.station.fillThreshold = 0 →
          exec (.scan l) s = .next (((u.sendDivert (.fill p k)).setItem acc
            { it with state := .shelved b k }).setBin b ((u.bin b).add k it.thickness)) ∧
          (u.bin b).fills[k] + it.thickness ≤ 40) ∧
        (s.firstWaiting it = none → s.fillPlace it.thickness = none → s.rsc.tray.length < 24 →
          exec (.scan l) s = .next
            (State.setItem { u.sendDivert .tray with rsc.tray := s.rsc.tray ++ [acc] } acc
              { it with state := .inTray })) ∧
        (s.firstWaiting it = none → s.fillPlace it.thickness = none → 24 ≤ s.rsc.tray.length →
          exec (.scan l) s = .next
            (bench (u.setItem acc { it with state := .atDesk serviceStation }) 253 (some acc)))))) ∧
  (∀ (h : Hdr) (cs : List Byte) (st acc : Nat) (s : State) (it : Item) (u : StationNo), Served h s →
    station? st = some u → accession? cs = some acc → s.item acc = some it →
    (it.state = .inTray → exec (.trayRemove h cs st) s = .next (State.answer
      (State.setItem { s with rsc.tray := s.rsc.tray.filter (· != acc) } acc { it with state := .atDesk u }) h
      .done false [])) ∧
    (it.state ≠ .inTray → exec (.trayRemove h cs st) s = .next (s.answer h .notInTray false []))) ∧
  (∀ (h : Hdr) (s : State), Served h s →
    exec (.trayInfo h) s = .next (s.answer h .done false
      (.num 1 s.rsc.tray.length :: s.rsc.tray.flatMap (fun acc => accField acc ::
        match s.item acc with
        | some it => [.num 1 it.thickness, .num 1 it.queue.length]
        | none => [.absent 1, .absent 1]))))

/-! ### Fire zones and wing authority (chapter 10) -/

/-- Input lines (R176, R177, R182, R186). A change of level away from the filtered level starts the filter count, and
a change back stops it; before the count ends nothing is taken. An ALARM taken active in an aisle zone in STANDBY
moves it to SECURING with the park timer running; a DIS taken active in a SECURED aisle zone moves it to DISCHARGED,
sets the latch, stops the queue, with AISLE_STOPPED when it was STOPPING (R64, log 22), and marks the aisle's bins for
audit. An ALARM taken active in a NORMAL aisle zone (R178, R179): its IDLE crane is sent PARK, a buffered bin is
FIRE-owned with its PUTAWAY recorded, the deferred putaways go, and a RETURNING bin is re-planned into another aisle,
or FIRE-owned with its slot freed. The last input taken inactive makes a SECURING or SECURED zone STANDBY, REARM taken
in an inactive zone clears the latch, and in an active one nothing. In Z4 (R185) an ALARM makes NORMAL SECURED with
the stations held, nothing else of them but a lamp that did not go with its attention flags (R109), and DISCHARGED
turns STANDBY with its last input. The building line taken active while no claim is set makes the authority BUILDING.
That the end of a filter count is a command of its own, which says nothing before the count has ended, is the model's
reading (logs 5, 38). -/
def Obligations.InputLinesAreFilteredAndTaken : Prop :=
  (∀ (z : ZoneNo) (k : ZoneLine) (level : Bool) (s : State),
    let l := (s.zone z).lines.get k
    let f := s.rsc.settings.interlock.filter
    (level ≠ l.level → level ≠ l.filtered → 0 < f →
      exec (.zoneLineChange z k level) s = .next (s.setLine z k { l with
        level := level, count := some (s.svp.tick + BitVec.ofNat 32 f) })) ∧
    (level ≠ l.level → level = l.filtered →
      exec (.zoneLineChange z k level) s = .next (s.setLine z k { l with level := level, count := none })) ∧
    (l.due s.svp.tick = false → exec (.zoneInputTaken z k) s = .next s)) ∧
  (∀ (a : Aisle) (s : State), s.fiu.buildingClaim = true → s.fiu.building.filtered = true →
    s.svp.notices.length < 64 →
    let r := s.zone a.zone
    (r.lines.alarm.due s.svp.tick = true → r.lines.alarm.level = true → r.state = .standby →
      r.parkTimer = none → r.shutterTimer = none → r.reopenPending = false → (s.crane a).state ≠ .parked →
      exec (.zoneInputTaken a.zone .alarm) s = .next (State.post
        (s.setZone a.zone { r with
          state := .securing
          lines := { r.lines with alarm := { level := true, filtered := true, count := none } }
          parkTimer := some (s.svp.tick + BitVec.ofNat 32 (100 * s.rsc.settings.interlock.park)) }) .zone
        a.zone.val 1 0)) ∧
    (r.lines.dis.due s.svp.tick = true → r.lines.dis.level = true → r.state = .secured → r.reopenPending = false →
      ((s.queue a).state = .stopping → s.svp.notices.length < 63) →
      ∃ t, exec (.zoneInputTaken a.zone .dis) s = .next t ∧
        t.zone a.zone = { r with
          state := .discharged
          lines := { r.lines with dis := { level := true, filtered := true, count := none } }
          latch := true } ∧
        (∀ z, z ≠ a.zone → t.zone z = s.zone z) ∧
        t.queue a = { s.queue a with state := .stopped, reason := some .latch } ∧
        (∀ c, c ≠ a → t.queue c = s.queue c) ∧
        t.svp.notices = s.svp.notices ++ [⟨.zone, a.val, 3, 0⟩] ++
          (if (s.queue a).state = .stopping then [⟨.aisleStopped, a.val, 2, 0⟩] else []) ∧
        (∀ e ∈ s.rsc.bins, ∀ x, e.2.state = .stored x → x.aisle = a → (e.1, { e.2 with audit := true }) ∈ t.rsc.bins) ∧
        t.rsc.slots = s.rsc.slots ∧ t.cranes = s.cranes ∧ t.stu = s.stu)) ∧
  (∀ (a : Aisle) (s : State), s.fiu.buildingClaim = s.fiu.buildingClaimNow → s.svp.mountState = .mounted →
    s.svp.notices.length < 64 →
    let r := s.zone a.zone
    let left : State → Prop := fun t =>
      t.zone a.zone = { r with
        state := .securing
        lines := { r.lines with alarm := { level := true, filtered := true, count := none } }
        parkTimer := some (s.svp.tick + BitVec.ofNat 32 (100 * s.rsc.settings.interlock.park)) } ∧
      (∀ z, z ≠ a.zone → t.zone z = s.zone z) ∧
      t.crane a = { s.crane a with state := .parking, restOutstanding := false, restTimer := none } ∧
      (∀ c, c ≠ a → t.crane c = s.crane c) ∧ t.queue a = { s.queue a with deferred := [] } ∧
      (∀ c, c ≠ a → t.queue c = s.queue c) ∧ t.dsp.jobs = s.dsp.jobs ∧ t.stu = s.stu ∧
      t.outputs = s.outputs ++ [.order a .park] ∧ t.svp.notices = s.svp.notices ++ [⟨.zone, a.val, 1, 0⟩] ∧
      t.fiu.buildingClaim = s.fiu.buildingClaim ∧ s.SameLending t
    r.lines.alarm.due s.svp.tick = true → r.lines.alarm.level = true → r.state = .normal → r.parkTimer = none →
    r.shutterTimer = none → r.reopenPending = false → (s.crane a).state = .idle → (s.crane a).resume = none →
    (s.crane a).overflow = [] →
    (∀ b j, (s.crane a).buffer = [b] → (s.bin b).owner = .job j → s.returningTo a = [] →
      ∃ t, exec (.zoneInputTaken a.zone .alarm) s = .next t ∧ left t ∧
        t.bin b = { s.bin b with owner := .fire } ∧ (∀ c, c ≠ b → t.bin c = s.bin c) ∧
        Tab.find t.clu.fireJobs b = some j ∧ t.clu.claims = s.clu.claims ∧ t.rsc.slots = s.rsc.slots) ∧
    (∀ b x, (s.crane a).buffer = [] → s.returningTo a = [b] → (s.bin b).state = .returning a (some x) →
      x.aisle = a → (s.slot x).state = .reserved b → (s.bin b).owner = .none →
      (s.wingSearch (s.bin b).height (s.bin b).climate (allAisles.filter (· ≠ a)) = none →
        ∃ t, exec (.zoneInputTaken a.zone .alarm) s = .next t ∧ left t ∧
          t.bin b = { s.bin b with state := .returning a none, owner := .fire } ∧
          (∀ c, c ≠ b → t.bin c = s.bin c) ∧ t.slot x = { s.slot x with state := .free } ∧
          (∀ y, y ≠ x → t.slot y = s.slot y) ∧ t.clu = s.clu) ∧
      ∀ y n, s.wingSearch (s.bin b).height (s.bin b).climate (allAisles.filter (· ≠ a)) = some (y, n) →
        ∃ t, exec (.zoneInputTaken a.zone .alarm) s = .next t ∧ left t ∧
          t.bin b = { s.bin b with state := .returning y.aisle (some y) } ∧
          (∀ c, c ≠ b → t.bin c = s.bin c) ∧ t.slot x = { s.slot x with state := .free } ∧
          t.slot y = { s.slot y with state := .reserved b } ∧
          (∀ z, z ≠ x → z ≠ y → t.slot z = s.slot z) ∧ t.clu = s.clu)) ∧
  (∀ (z : ZoneNo) (s : State), s.fiu.buildingClaim = true → s.fiu.building.filtered = true →
    s.svp.notices.length < 64 →
    let r := s.zone z
    let taken : ZoneLine → Bool → ZoneLines := fun k level =>
      r.lines.set k { level := level, filtered := level, count := none }
    let toStandby : Zone → State := fun q => State.post (s.setZone z { q with state := .standby }) .zone z.val 4 0
    (∀ k, k ≠ .rearm → (r.lines.get k).due s.svp.tick = true → (r.lines.get k).level = false →
      (∀ m, m ≠ k → m ≠ .rearm → (r.lines.get m).filtered = false) →
      (r.state = .securing ∨ r.state = .secured ∨ (r.state = .discharged ∧ z = frontEnd) →
        exec (.zoneInputTaken z k) s = .next (toStandby { r with lines := taken k false })) ∧
      (r.state = .discharged → z ≠ frontEnd →
        exec (.zoneInputTaken z k) s = .next (s.setZone z { r with lines := taken k false }))) ∧
    ((r.lines.get .rearm).due s.svp.tick = true → (r.lines.get .rearm).level = true →
      (r.isActive = false → r.state = .discharged → z ≠ frontEnd →
        exec (.zoneInputTaken z .rearm) s = .next (toStandby { r with lines := taken .rearm true, latch := false })) ∧
      (r.isActive = true ∨ z = frontEnd →
        exec (.zoneInputTaken z .rearm) s = .next (s.setZone z { r with lines := taken .rearm true }))) ∧
    ((r.lines.get .alarm).due s.svp.tick = true → (r.lines.get .alarm).level = true → z = frontEnd →
      (r.state = .normal → (s.station fillStation).isOpen = false →
        ∃ t, exec (.zoneInputTaken z .alarm) s = .next t ∧
          t.zone z = { r with state := .secured, lines := taken .alarm true } ∧
          (∀ u, t.station u = { s.station u with
              state := match (s.station u).state with
                | .normal o => .fireHold o
                | .fireHold o => .fireHold o
              lamp := (t.station u).lamp } ∧
            (lampFor s.svp.tick s.rsc.settings.station.lampOn (s.station u) = (s.station u).lamp →
              (t.station u).lamp = (s.station u).lamp)) ∧
          t.svp.notices = s.svp.notices ++ [⟨.zone, 4, 2, 0⟩] ∧ t.rsc = s.rsc ∧ t.dsp = s.dsp ∧
          t.cranes = s.cranes ∧ t.clu = s.clu ∧ t.outputs = s.outputs) ∧
      (r.state = .secured ∨ r.state = .discharged →
        exec (.zoneInputTaken z .alarm) s = .next (s.setZone z { r with lines := taken .alarm true })))) ∧
  (∀ (level : Bool) (s : State), level ≠ s.fiu.building.level → level ≠ s.fiu.building.filtered →
    0 < s.rsc.settings.interlock.filter →
    exec (.authorityLineChange level) s = .next { s with fiu.building := { s.fiu.building with
      level := level
      count := some (s.svp.tick + BitVec.ofNat 32 s.rsc.settings.interlock.filter) } }) ∧
  (∀ s : State, s.fiu.building.due s.svp.tick = false → exec .authorityLineTaken s = .next s) ∧
  (∀ s : State, s.fiu.building.due s.svp.tick = true → s.fiu.building.level = true → s.fiu.libraryClaim = false →
    s.fiu.buildingClaim = false →
    exec .authorityLineTaken s = .next (State.post { s with
      fiu.building := { level := true, filtered := true, count := none }
      fiu.buildingClaim := true } .authority 2 0 0))

/-- CLAIM_WING, YIELD_WING, SUPERVISE and the supervision timer (R186, R187). A claim is refused while the
building holds the wing; without it, the library claim is set with epoch 0. SUPERVISE with the current epoch
restarts the timer; with another, and at the first expiry, supervision lapses under the next epoch; the second
expiry clears the claim. The premises hold back what a change of authority would start: no crane that can be
parked, woken or selected for. That the expiry is a command of its own, which says nothing before it is due, is the
model's choice (logs 5, 6). -/
def Obligations.AuthorityAndSupervision : Prop :=
  ∀ (h : Hdr) (s : State),
    let period := s.rsc.settings.interlock.supervision
    let start : Option Tick := if period = 0 then none else some (s.svp.tick + BitVec.ofNat 32 (100 * period))
    let lapse : State := State.post { s with
      fiu.lapsed := true, fiu.epoch := s.fiu.epoch + 1, fiu.supTimer := start } .supervisionLapse
      (s.fiu.epoch + 1).toNat 0 0
    let freed : State := State.post { s with
      fiu.libraryClaim := false, fiu.lapsed := false, fiu.supTimer := none } .authority 3 0 0
    (Served h s →
      (s.fiu.buildingClaim = true → exec (.claimWing h) s = .next (s.answer h .buildingHolds false [])) ∧
      (s.fiu.buildingClaim = false → s.fiu.libraryClaim = false → s.NoneAvailable →
        (∀ a, (s.crane a).state ≠ .parked) →
        exec (.claimWing h) s = .next (State.answer (State.post { s with
          fiu.libraryClaim := true, fiu.epoch := 0, fiu.lapsed := false, fiu.supTimer := start } .authority 0 0 0)
          h .done false [.num 1 0])) ∧
      (s.fiu.libraryClaim = false → exec (.yieldWing h) s = .next (s.answer h .done false [])) ∧
      (s.fiu.libraryClaim = true → s.fiu.buildingClaim = false → s.NoneAvailable →
        exec (.yieldWing h) s = .next (freed.answer h .done false [])) ∧
      (s.fiu.libraryClaim = false ∨ period = 0 →
        ∀ e, exec (.supervise h e) s = .next (s.answer h .notSupervised false [])) ∧
      (s.fiu.libraryClaim = true → period ≠ 0 → s.fiu.lapsed = false →
        exec (.supervise h s.fiu.epoch.toNat) s = .next (State.answer { s with
          fiu.supTimer := start, fiu.lapsed := false } h .done false [.num 1 s.fiu.epoch.toNat]) ∧
        ∀ e, e ≠ s.fiu.epoch.toNat → exec (.supervise h e) s =
          .next (lapse.answer h .epoch false [.num 1 (s.fiu.epoch + 1).toNat]))) ∧
    (dueAt s.fiu.supTimer s.svp.tick = false → exec .supervisionExpiry s = .next s) ∧
    (dueAt s.fiu.supTimer s.svp.tick = true → s.fiu.lapsed = false →
      exec .supervisionExpiry s = .next lapse) ∧
    (dueAt s.fiu.supTimer s.svp.tick = true → s.fiu.lapsed = true → s.fiu.libraryClaim = true →
      s.fiu.buildingClaim = false → s.NoneAvailable → exec .supervisionExpiry s = .next freed)

/-- The securing sequence and the reopening (R179, R183, R184, R185, R189). The park timer's expiry posts
CRANE_UNPARKED and closes the shutter; the shutter timer's ends the securing with SHUTTER_FAULT, or abandons a
reopening; the closed confirmation ends the securing; REOPEN_ZONE opens the shutter of an aisle zone in STANDBY, and
the open confirmation makes the zone NORMAL and hands back the aisle's FIRE-owned bins (R54): the one on the crane to
its PUTBACK, which joins the queue, one at the port to the PUTAWAY recorded against it, or, with none, to a new one as
at its arrival; Z4 is NORMAL at once, and its stations take their prior states. That flags are sent as bytes 0 and 1,
and the parts that Z4 has not as absent, is the model's layout (log 9), and that a PUTAWAY made then is enqueued at
the tick of that taking its choice (log 39). An expiry is a command (log 5), and one that finds its own timer not
running changes nothing, in a securing whose other timer runs too: the model's reading (log 6). -/
def Obligations.ZonesAreSecuredAndReopened : Prop :=
  (∀ (a : Aisle) (s : State) (d : Tick),
    let z := a.zone
    let r := s.zone z
    let closing := some (s.svp.tick + BitVec.ofNat 32 (100 * s.rsc.settings.interlock.shutter))
    (r.parkTimer = some d → Tick.reached d s.svp.tick = true → (r.shutterCmd = .open ∨ r.confirmed = false) →
      exec (.parkTimeout a) s = .next ((s.post .craneUnparked a.val (s.crane a).state.code 0).setZone z { r with
        parkTimer := none, shutterCmd := .close, shutterTimer := closing })) ∧
    (r.parkTimer = none → exec (.parkTimeout a) s = .next s) ∧
    (r.shutterTimer = some d → Tick.reached d s.svp.tick = true → r.reopenPending = true →
      exec (.shutterTimeout a) s = .next ((s.setZone z { r with
        reopenPending := false, shutterCmd := .close, shutterTimer := none }).post .shutterFault a.val 1 0)) ∧
    (r.shutterTimer = some d → Tick.reached d s.svp.tick = true → r.reopenPending = false → r.state = .securing →
      exec (.shutterTimeout a) s = .next (((s.post .shutterFault a.val 0 0).setZone z { r with
        state := .secured, shutterTimer := none, confirmed := false }).post .zone a.val 2 0)) ∧
    (r.shutterTimer = none → exec (.shutterTimeout a) s = .next s) ∧
    (r.shutterCmd = .close → r.shutterTimer = some d → r.state = .securing →
      exec (.shutterClosed a) s = .next ((s.setZone z { r with
        state := .secured, shutterTimer := none, confirmed := true }).post .zone a.val 2 0)) ∧
    (r.shutterCmd = .close → r.shutterTimer = none →
      exec (.shutterClosed a) s = .next (s.setZone z { r with confirmed := true })) ∧
    (r.reopenPending = false → exec (.shutterOpened a) s = .next s) ∧
    (r.reopenPending = true → (s.queue a).putback = none → (s.crane a).buffer = [] → (s.crane a).overflow = [] →
      s.clu.fireJobs = [] → s.returningFire = [] → s.circ.pages = [] → s.riu.fills = [] →
      s.riu.noQualifier = false → (s.crane a).available = false → (s.crane a).state ≠ .parked →
      exec (.shutterOpened a) s = .next ((s.setZone z { r with
        state := .normal, shutterTimer := none, reopenPending := false }).post .zone a.val 0 0))) ∧
  (∀ (a : Aisle) (s : State) (b : Nat), (s.zone a.zone).reopenPending = true → s.svp.mountState = .mounted →
    (s.bin b).owner = .fire → (s.crane a).overflow = [] → s.returningFire = [] → s.circ.pages = [] →
    s.riu.fills = [] → s.riu.noQualifier = false → (s.crane a).available = false → (s.crane a).state ≠ .parked →
    s.svp.notices.length < 64 →
    let handed : State → Nat → Prop := fun t j =>
      t.zone a.zone = { s.zone a.zone with state := .normal, shutterTimer := none, reopenPending := false } ∧
      t.svp.notices = s.svp.notices ++ [⟨.zone, a.val, 0, 0⟩] ∧ t.bin b = { s.bin b with owner := .job j } ∧
      (∀ c, c ≠ b → t.bin c = s.bin c) ∧ t.clu = { s.clu with fireJobs := [] } ∧ t.rsc.slots = s.rsc.slots ∧
      t.stu = s.stu ∧ t.outputs = s.outputs ∧ s.SameLending t
    (∀ n q x, (s.queue a).putback = some n → s.clu.fireJobs = [(b, n)] → s.job n = some q → q.aisle = some a →
      (s.bin b).state = .onCrane x → (s.crane a).buffer = [] →
      ∃ t, exec (.shutterOpened a) s = .next t ∧ handed t n ∧
        t.queue a = { s.queue a with jobs := (s.queue a).jobs ++ [n], putback := none } ∧
        t.dsp.jobs = s.dsp.jobs ∧ t.cranes = s.cranes) ∧
    (∀ n x, (s.queue a).putback = none → s.clu.fireJobs = [(b, n)] → (s.bin b).state = .atPort a x →
      (s.crane a).buffer = [b] →
      ∃ t, exec (.shutterOpened a) s = .next t ∧ handed t n ∧ t.queue a = s.queue a ∧
        t.dsp.jobs = s.dsp.jobs ∧ t.cranes = s.cranes) ∧
    (∀ n x, (s.queue a).putback = none → s.clu.fireJobs = [] → (s.bin b).state = .atPort a (some x) →
      x.aisle = a → (s.slot x).state = .reserved b → (s.crane a).buffer = [b] → s.freeJob = some n →
      (s.queue a).used < 32 →
      ∃ t, exec (.shutterOpened a) s = .next t ∧ handed t n ∧
        t.job n = some { kind := .putaway, aisle := some a, bin := b, source := .port, dest := .slot x, priority := 2,
                         enqueued := s.svp.tick, origin := .return, active := false } ∧
        (∀ i, i ≠ n → t.job i = s.job i) ∧
        t.queue a = { s.queue a with jobs := (s.queue a).jobs ++ [n] } ∧ (t.crane a).buffer = [b])) ∧
  (∀ (h : Hdr) (n : Nat) (s : State) (z : ZoneNo), Served h s → zone? n = some z →
    let r := s.zone z
    (s.authority ≠ .library → exec (.reopenZone h n) s = .next (s.answer h .noAuthority false [])) ∧
    (s.authority = .library → r.state ≠ .normal → r.latch = true →
      exec (.reopenZone h n) s = .next (s.answer h .latched false [])) ∧
    (s.authority = .library → r.latch = false → r.state ≠ .standby →
      exec (.reopenZone h n) s = .next (s.answer h .notStandby false [])) ∧
    (s.authority = .library → r.state = .standby → r.latch = false → z ≠ frontEnd → r.parkTimer = none →
      r.shutterTimer = none → r.reopenPending = false →
      exec (.reopenZone h n) s = .next (State.answer (s.setZone z { r with
        shutterCmd := .open
        confirmed := false
        reopenPending := true
        shutterTimer := some (s.svp.tick + BitVec.ofNat 32 (100 * s.rsc.settings.interlock.shutter)) }) h .started
        false [])) ∧
    (s.authority = .library → r.state = .standby → r.latch = false → z = frontEnd → s.NoneAvailable →
      (∀ u, (s.station u).state = .fireHold .closed) →
      (∀ p, (s.position fillStation p).content = .empty ∧ (s.position fillStation p).expiredInHold = false) →
      ∃ t, exec (.reopenZone h n) s = .next t ∧ (t.zone z).state = .normal ∧
        (∀ u, (t.station u).state = .normal .closed) ∧ t.rsc = s.rsc ∧ t.dsp = s.dsp ∧ t.cranes = s.cranes ∧
        t.clu = s.clu ∧ t.svp.resp = some { tag := h.tag, code := .done, clamped := false, fields := [] }) ∧
    exec (.zoneInfo h n) s = .next (s.answer h .done false
      ([.num 1 r.state.code, flagField r.lines.alarm.filtered, flagField r.lines.fault.filtered,
        flagField r.lines.pre.filtered, flagField r.lines.dis.filtered, flagField r.lines.rearm.filtered] ++
        if z = frontEnd then [.absent 4, .absent 1, .absent 4, .absent 1, .absent 1, .absent 1]
        else [optTick r.parkTimer, .num 1 r.shutterCmd.code, optTick r.shutterTimer, flagField r.confirmed,
              flagField r.reopenPending, flagField r.latch]))) ∧
  (∀ (h : Hdr) (s : State), Served h s →
    exec (.wingInfo h) s = .next (s.answer h .done false
      [flagField s.fiu.libraryClaim, flagField s.fiu.buildingClaim, .num 1 s.authority.code,
       flagField s.fiu.building.filtered, .num 1 s.rsc.settings.interlock.supervision, .num 1 s.fiu.epoch.toNat,
       flagField s.fiu.lapsed, optTick s.fiu.supTimer]))

/-! ### The whole machine -/

/-- What the movement of bins leaves alone, and what lending leaves alone: a command that moves bins changes no
borrower, loan, hold, policy, calendar, day, mark or setting, and of the interlock no input line of a zone, no building
line, no latch, pending reopening or claim, and neither the epoch, the lapse nor the supervision timer; a command of
the lending desk that touches no bin changes no slot, bin, claim, job, crane, station, page, fill or zone, and sends
nothing; and no command touches the queue of commands (log 1). -/
def Obligations.MovementAndLendingAreSeparate : Prop :=
  (∀ (c : Instr) (s t : State), c.movesBins = true → exec c s = .next t →
    s.SameLending t ∧ s.SameInputs t) ∧
  (∀ (c : Instr) (s t : State), c.lendsOnly = true → exec c s = .next t → s.SameMovement t) ∧
  (∀ (c : Instr) (s t : State), exec c s = .next t → t.pending = s.pending)

/-- Promises of chapter 10 about the whole machine (R182, R186): a set latch is cleared only by REARM of its own
zone or a power-on reset, and the library claim is set only by CLAIM_WING. -/
def Obligations.LatchAndClaimAreGuarded : Prop :=
  (∀ (c : Instr) (s t : State) (a : Aisle), exec c s = .next t → s.latched a = true →
    t.latched a = true ∨ c = .zoneLineChange a.zone .rearm true ∨ c = .zoneInputTaken a.zone .rearm ∨
      ∃ f, c = .powerOnReset f) ∧
  (∀ (c : Instr) (s t : State), exec c s = .next t → t.fiu.libraryClaim = true →
    s.fiu.libraryClaim = true ∨ ∃ h, c = .claimWing h)

/-- The state after reset meets the invariants of the next statements: every table in rising order, every queue
and list within its limit, and the records in agreement: slots and bins, owners and jobs, holds and items, the tray,
the fills and counts (the values of `State.reset` are those of log 3). -/
def Obligations.ResetIsWellFormed : Prop :=
  State.reset.Form ∧ State.reset.Bounded ∧ State.reset.RackAgrees ∧ State.reset.OwnersAgree ∧
    State.reset.HoldsAgree ∧ State.reset.TrayAgrees ∧ State.reset.FillsAgree

/-- Every step keeps the form of the tables (numbers strictly rising) and these limits: 64 notices and OVERRUN only
over a queue that holds one (R195), 32 claims (R45), 24 items on the tray (R167), 32 kept events of each kind (R101,
R104), job records numbered 0 to 127 (R56), batch records numbered 0 to 7 (R118), 32 places of an aisle's queue, a
waiting PUTBACK counted (R58, R60, R62), 4 bins of a lane (R108), 2 bins of a port inbound buffer (R81); from every
state, reached or not. -/
def Obligations.EveryStepKeepsFormsAndLimits : Prop :=
  ∀ s t : State, step s = .next t → (s.Form → t.Form) ∧ (s.Bounded → t.Bounded)

/-- No step sends a crane RETRIEVE, STORE, SHIFT, VERIFY or WAKE against R76: what a step sends follows what was
sent before, and each such order goes to an aisle whose zone is NORMAL, whose latch is clear, under LIBRARY
authority and no lapse, before the step or after it. -/
def Obligations.NoOrderAgainstTheInterlock : Prop :=
  ∀ s t : State, step s = .next t → s.OrdersAllowed t

/-- Every step keeps the records in agreement, whatever bin, job or item it is about: a bin is STORED in a slot or
holds its reservation exactly when the slot is OCCUPIED by it or RESERVED for it (R2, R3); a job that owns a bin, or
is recorded against a FIRE-owned one, is in use and names the bin (R41, R53); a hold stands in the queue of the item
that it names, and an item is HOLD_SHELF exactly when its first hold is READY (R149, R150); an item is IN_TRAY
exactly when the tray names it (R167); a compartment's fill is the sum of the thicknesses of the items SHELVED there
and at most 40, a bin's item count is the number of the items SHELVED in it, and no item is SHELVED in an UNUSED bin
(R27, R38). From every state whose tables are in rising order, reached or not. -/
def Obligations.EveryStepKeepsTheRecordsInAgreement : Prop :=
  ∀ s t : State, step s = .next t → s.Form →
    (s.RackAgrees → t.RackAgrees) ∧ (s.OwnersAgree → t.OwnersAgree) ∧
      (s.HoldsAgree → t.HoldsAgree) ∧ (s.TrayAgrees → t.TrayAgrees) ∧ (s.FillsAgree → t.FillsAgree)
end

