-- ==== Sys2Proof/Laws/Tab.lean ====
section
/-! SUPPORT. Laws of tables: reading after writing, and that every table operation keeps the form (numbers
strictly rising). -/

namespace Sys2Proof.Machine

variable {α : Type}

@[simp] theorem Tab.find_nil (n : Nat) : Tab.find ([] : Tab α) n = none := rfl

theorem Tab.find_cons (k : Nat) (v : α) (t : Tab α) (n : Nat) :
    Tab.find ((k, v) :: t) n = if k = n then some v else Tab.find t n := rfl

/-- Reading a record just written gives the value written. -/
@[simp] theorem Tab.find_put_self (t : Tab α) (n : Nat) (v : α) : Tab.find (Tab.put t n v) n = some v := by
  induction t with
  | nil => simp [Tab.put, Tab.find]
  | cons e t ih =>
    obtain ⟨k, u⟩ := e
    unfold Tab.put
    split
    · simp [Tab.find]
    · split
      · simp [Tab.find]
      · rename_i h1 h2
        simp [Tab.find, ih, Ne.symm h2]

/-- Writing a record leaves every other record alone. -/
theorem Tab.find_put_other (t : Tab α) (n m : Nat) (v : α) (h : n ≠ m) :
    Tab.find (Tab.put t n v) m = Tab.find t m := by
  induction t with
  | nil => simp [Tab.put, Tab.find, h]
  | cons e t ih =>
    obtain ⟨k, u⟩ := e
    unfold Tab.put
    split
    · simp [Tab.find, h]
    · split
      · rename_i h1 h2
        subst h2
        simp [Tab.find, h]
      · simp [Tab.find, ih]

/-- Reading a record after a write. -/
theorem Tab.find_put (t : Tab α) (n m : Nat) (v : α) :
    Tab.find (Tab.put t n v) m = if n = m then some v else Tab.find t m := by
  split
  · next h => subst h; simp
  · next h => exact Tab.find_put_other t n m v h

/-- A removed record is not listed. -/
@[simp] theorem Tab.find_del_self (t : Tab α) (n : Nat) : Tab.find (Tab.del t n) n = none := by
  induction t with
  | nil => rfl
  | cons e t ih =>
    obtain ⟨k, u⟩ := e
    by_cases h : k = n
    · simpa [Tab.del, h] using ih
    · have : Tab.find (Tab.del ((k, u) :: t) n) n = Tab.find (Tab.del t n) n := by
        simp [Tab.del, h, Tab.find]
      rw [this, ih]

/-- Removing a record leaves every other record alone. -/
theorem Tab.find_del_other (t : Tab α) (n m : Nat) (h : n ≠ m) : Tab.find (Tab.del t n) m = Tab.find t m := by
  induction t with
  | nil => rfl
  | cons e t ih =>
    obtain ⟨k, u⟩ := e
    by_cases hk : k = n
    · subst hk
      simpa [Tab.del, Tab.find, h] using ih
    · have : Tab.find (Tab.del ((k, u) :: t) n) m = if k = m then some u else Tab.find (Tab.del t n) m := by
        simp [Tab.del, hk, Tab.find]
      rw [this, ih, Tab.find_cons]

/-- Reading a record after a removal. -/
theorem Tab.find_del (t : Tab α) (n m : Nat) :
    Tab.find (Tab.del t n) m = if n = m then none else Tab.find t m := by
  split
  · next h => subst h; simp
  · next h => exact Tab.find_del_other t n m h

/-- Every number of a written table is the written one or was listed before. -/
theorem Tab.mem_put (t : Tab α) (n : Nat) (v : α) (k : Nat) :
    k ∈ (Tab.put t n v).map Prod.fst ↔ k = n ∨ k ∈ t.map Prod.fst := by
  induction t with
  | nil => simp [Tab.put]
  | cons e t ih =>
    obtain ⟨j, u⟩ := e
    unfold Tab.put
    split
    · simp
    · split
      · next h => subst h; simp
      · simp only [List.map_cons, List.mem_cons, ih]; tauto

/-- A write keeps the form. -/
theorem Tab.wf_put {t : Tab α} (h : Tab.wf t) (n : Nat) (v : α) : Tab.wf (Tab.put t n v) := by
  induction t with
  | nil => simp [Tab.wf, Tab.put]
  | cons e t ih =>
    obtain ⟨k, u⟩ := e
    simp only [Tab.wf, List.map_cons, List.pairwise_cons] at h
    unfold Tab.put
    split
    · next hlt =>
      simp only [Tab.wf, List.map_cons, List.pairwise_cons, List.mem_cons]
      refine ⟨?_, h⟩
      rintro a (rfl | ha)
      · exact hlt
      · exact Nat.lt_trans hlt (h.1 a ha)
    · split
      · next heq => subst heq; simpa [Tab.wf] using h
      · next h1 h2 =>
        simp only [Tab.wf, List.map_cons, List.pairwise_cons]
        refine ⟨?_, ih h.2⟩
        intro a ha
        rcases (Tab.mem_put t n v a).1 ha with rfl | ha
        · omega
        · exact h.1 a ha

/-- Dropping records keeps the form. -/
theorem Tab.wf_filter {t : Tab α} (h : Tab.wf t) (p : Nat × α → Bool) : Tab.wf (t.filter p) :=
  h.sublist (List.filter_sublist.map _)

/-- A removal keeps the form. -/
theorem Tab.wf_del {t : Tab α} (h : Tab.wf t) (n : Nat) : Tab.wf (Tab.del t n) := Tab.wf_filter h _

/-- Changing the records of a table, but not their numbers, keeps the form. -/
theorem Tab.wf_map {t : Tab α} (h : Tab.wf t) (f : Nat × α → Nat × α) (hf : ∀ e, (f e).1 = e.1) :
    Tab.wf (t.map f) := by
  have : (t.map f).map Prod.fst = t.map Prod.fst := by simp [hf]
  simpa [Tab.wf, this] using h

/-- Changing or dropping the records of a table keeps the form. -/
theorem Tab.wf_filterMap {t : Tab α} (h : Tab.wf t) (f : Nat × α → Option (Nat × α))
    (hf : ∀ e d, f e = some d → d.1 = e.1) : Tab.wf (t.filterMap f) := by
  have hs : List.Sublist ((t.filterMap f).map Prod.fst) (t.map Prod.fst) := by
    clear h
    induction t with
    | nil => simp
    | cons e t ih =>
      cases hfe : f e with
      | none => simpa [List.filterMap_cons, hfe] using ih.cons e.1
      | some d =>
        have := hf e d hfe
        simpa [List.filterMap_cons, hfe, this] using ih
  exact h.sublist hs

/-- The lowest free number found from `n` on is not listed among the numbers from `n` on. -/
theorem Tab.find_lowestFree {t : Tab α} (h : Tab.wf t) (n : Nat) : Tab.find t (Tab.lowestFree t n) = none := by
  have key : ∀ (t : Tab α) (n : Nat), Tab.wf t → n ≤ Tab.lowestFree t n ∧ Tab.find t (Tab.lowestFree t n) = none := by
    intro t
    induction t with
    | nil => intro n _; simp [Tab.lowestFree]
    | cons e t ih =>
      intro n hw
      obtain ⟨k, u⟩ := e
      simp only [Tab.wf, List.map_cons, List.pairwise_cons] at hw
      unfold Tab.lowestFree
      split
      · next hk =>
        have := ih (n + 1) hw.2
        refine ⟨by omega, ?_⟩
        rw [Tab.find_cons, if_neg (by omega)]
        exact this.2
      · split
        · next h1 h2 =>
          have := ih n hw.2
          refine ⟨this.1, ?_⟩
          rw [Tab.find_cons, if_neg (by omega)]
          exact this.2
        · next h1 h2 =>
          refine ⟨Nat.le_refl n, ?_⟩
          rw [Tab.find_cons, if_neg h1]
          have : ∀ (t : Tab α), (∀ a ∈ t.map Prod.fst, k < a) → Tab.find t n = none := by
            intro t
            induction t with
            | nil => intro _; rfl
            | cons e t ih2 =>
              intro hh
              obtain ⟨j, w⟩ := e
              have hj : k < j := hh j (by simp)
              rw [Tab.find_cons, if_neg (by omega)]
              exact ih2 (fun a ha => hh a (by simp at ha ⊢; exact Or.inr ha))
          exact this t hw.1
  exact (key t n h).2

/-- Applying a step to every element of a list keeps what the step keeps. -/
theorem State.each_keeps {β : Type} (P : State → Prop) (f : State → β → State)
    (hf : ∀ s x, P s → P (f s x)) (l : List β) (s : State) (h : P s) : P (s.each l f) := by
  unfold State.each
  induction l generalizing s with
  | nil => exact h
  | cons x l ih => exact ih (f s x) (hf s x h)

/-- Applying a step to every element of a list keeps what the step keeps. -/
theorem Work.each_keeps {β : Type} (P : Work → Prop) (f : Work → β → Work)
    (hf : ∀ w x, P w → P (f w x)) (l : List β) (w : Work) (h : P w) : P (w.each l f) := by
  unfold Work.each
  induction l generalizing w with
  | nil => exact h
  | cons x l ih => exact ih (f w x) (hf w x h)

end Sys2Proof.Machine
end

