-- ==== Sys2Proof/Laws/State.lean ====
section
/-! SUPPORT. One lemma per field per update of the state: an update leaves every other field alone, and
reading a record back gives what was written. -/

namespace Sys2Proof.Machine

/-! `State.setSlot`. -/
@[simp] theorem State.setSlot_pending (s : State) (x : SlotAddr) (r : Slot) : (s.setSlot x r).pending = s.pending := rfl
@[simp] theorem State.setSlot_outputs (s : State) (x : SlotAddr) (r : Slot) : (s.setSlot x r).outputs = s.outputs := rfl
@[simp] theorem State.setSlot_svp (s : State) (x : SlotAddr) (r : Slot) : (s.setSlot x r).svp = s.svp := rfl
@[simp] theorem State.setSlot_clu (s : State) (x : SlotAddr) (r : Slot) : (s.setSlot x r).clu = s.clu := rfl
@[simp] theorem State.setSlot_dsp (s : State) (x : SlotAddr) (r : Slot) : (s.setSlot x r).dsp = s.dsp := rfl
@[simp] theorem State.setSlot_cranes (s : State) (x : SlotAddr) (r : Slot) : (s.setSlot x r).cranes = s.cranes := rfl
@[simp] theorem State.setSlot_stu (s : State) (x : SlotAddr) (r : Slot) : (s.setSlot x r).stu = s.stu := rfl
@[simp] theorem State.setSlot_circ (s : State) (x : SlotAddr) (r : Slot) : (s.setSlot x r).circ = s.circ := rfl
@[simp] theorem State.setSlot_riu (s : State) (x : SlotAddr) (r : Slot) : (s.setSlot x r).riu = s.riu := rfl
@[simp] theorem State.setSlot_fiu (s : State) (x : SlotAddr) (r : Slot) : (s.setSlot x r).fiu = s.fiu := rfl
@[simp] theorem State.setSlot_formatOk (s : State) (x : SlotAddr) (r : Slot) : (s.setSlot x r).rsc.formatOk = s.rsc.formatOk := rfl
@[simp] theorem State.setSlot_bins (s : State) (x : SlotAddr) (r : Slot) : (s.setSlot x r).rsc.bins = s.rsc.bins := rfl
@[simp] theorem State.setSlot_items (s : State) (x : SlotAddr) (r : Slot) : (s.setSlot x r).rsc.items = s.rsc.items := rfl
@[simp] theorem State.setSlot_borrowers (s : State) (x : SlotAddr) (r : Slot) : (s.setSlot x r).rsc.borrowers = s.rsc.borrowers := rfl
@[simp] theorem State.setSlot_loans (s : State) (x : SlotAddr) (r : Slot) : (s.setSlot x r).rsc.loans = s.rsc.loans := rfl
@[simp] theorem State.setSlot_holds (s : State) (x : SlotAddr) (r : Slot) : (s.setSlot x r).rsc.holds = s.rsc.holds := rfl
@[simp] theorem State.setSlot_tray (s : State) (x : SlotAddr) (r : Slot) : (s.setSlot x r).rsc.tray = s.rsc.tray := rfl
@[simp] theorem State.setSlot_policy (s : State) (x : SlotAddr) (r : Slot) : (s.setSlot x r).rsc.policy = s.rsc.policy := rfl
@[simp] theorem State.setSlot_calBase (s : State) (x : SlotAddr) (r : Slot) : (s.setSlot x r).rsc.calBase = s.rsc.calBase := rfl
@[simp] theorem State.setSlot_closedDays (s : State) (x : SlotAddr) (r : Slot) : (s.setSlot x r).rsc.closedDays = s.rsc.closedDays := rfl
@[simp] theorem State.setSlot_today (s : State) (x : SlotAddr) (r : Slot) : (s.setSlot x r).rsc.today = s.rsc.today := rfl
@[simp] theorem State.setSlot_inService (s : State) (x : SlotAddr) (r : Slot) : (s.setSlot x r).rsc.inService = s.rsc.inService := rfl
@[simp] theorem State.setSlot_settings (s : State) (x : SlotAddr) (r : Slot) : (s.setSlot x r).rsc.settings = s.rsc.settings := rfl

/-! `State.setBin`. -/
@[simp] theorem State.setBin_pending (s : State) (b : Nat) (r : Bin) : (s.setBin b r).pending = s.pending := rfl
@[simp] theorem State.setBin_outputs (s : State) (b : Nat) (r : Bin) : (s.setBin b r).outputs = s.outputs := rfl
@[simp] theorem State.setBin_svp (s : State) (b : Nat) (r : Bin) : (s.setBin b r).svp = s.svp := rfl
@[simp] theorem State.setBin_clu (s : State) (b : Nat) (r : Bin) : (s.setBin b r).clu = s.clu := rfl
@[simp] theorem State.setBin_dsp (s : State) (b : Nat) (r : Bin) : (s.setBin b r).dsp = s.dsp := rfl
@[simp] theorem State.setBin_cranes (s : State) (b : Nat) (r : Bin) : (s.setBin b r).cranes = s.cranes := rfl
@[simp] theorem State.setBin_stu (s : State) (b : Nat) (r : Bin) : (s.setBin b r).stu = s.stu := rfl
@[simp] theorem State.setBin_circ (s : State) (b : Nat) (r : Bin) : (s.setBin b r).circ = s.circ := rfl
@[simp] theorem State.setBin_riu (s : State) (b : Nat) (r : Bin) : (s.setBin b r).riu = s.riu := rfl
@[simp] theorem State.setBin_fiu (s : State) (b : Nat) (r : Bin) : (s.setBin b r).fiu = s.fiu := rfl
@[simp] theorem State.setBin_formatOk (s : State) (b : Nat) (r : Bin) : (s.setBin b r).rsc.formatOk = s.rsc.formatOk := rfl
@[simp] theorem State.setBin_slots (s : State) (b : Nat) (r : Bin) : (s.setBin b r).rsc.slots = s.rsc.slots := rfl
@[simp] theorem State.setBin_items (s : State) (b : Nat) (r : Bin) : (s.setBin b r).rsc.items = s.rsc.items := rfl
@[simp] theorem State.setBin_borrowers (s : State) (b : Nat) (r : Bin) : (s.setBin b r).rsc.borrowers = s.rsc.borrowers := rfl
@[simp] theorem State.setBin_loans (s : State) (b : Nat) (r : Bin) : (s.setBin b r).rsc.loans = s.rsc.loans := rfl
@[simp] theorem State.setBin_holds (s : State) (b : Nat) (r : Bin) : (s.setBin b r).rsc.holds = s.rsc.holds := rfl
@[simp] theorem State.setBin_tray (s : State) (b : Nat) (r : Bin) : (s.setBin b r).rsc.tray = s.rsc.tray := rfl
@[simp] theorem State.setBin_policy (s : State) (b : Nat) (r : Bin) : (s.setBin b r).rsc.policy = s.rsc.policy := rfl
@[simp] theorem State.setBin_calBase (s : State) (b : Nat) (r : Bin) : (s.setBin b r).rsc.calBase = s.rsc.calBase := rfl
@[simp] theorem State.setBin_closedDays (s : State) (b : Nat) (r : Bin) : (s.setBin b r).rsc.closedDays = s.rsc.closedDays := rfl
@[simp] theorem State.setBin_today (s : State) (b : Nat) (r : Bin) : (s.setBin b r).rsc.today = s.rsc.today := rfl
@[simp] theorem State.setBin_inService (s : State) (b : Nat) (r : Bin) : (s.setBin b r).rsc.inService = s.rsc.inService := rfl
@[simp] theorem State.setBin_settings (s : State) (b : Nat) (r : Bin) : (s.setBin b r).rsc.settings = s.rsc.settings := rfl

/-! `State.setItem`. -/
@[simp] theorem State.setItem_pending (s : State) (n : Nat) (r : Item) : (s.setItem n r).pending = s.pending := rfl
@[simp] theorem State.setItem_outputs (s : State) (n : Nat) (r : Item) : (s.setItem n r).outputs = s.outputs := rfl
@[simp] theorem State.setItem_svp (s : State) (n : Nat) (r : Item) : (s.setItem n r).svp = s.svp := rfl
@[simp] theorem State.setItem_clu (s : State) (n : Nat) (r : Item) : (s.setItem n r).clu = s.clu := rfl
@[simp] theorem State.setItem_dsp (s : State) (n : Nat) (r : Item) : (s.setItem n r).dsp = s.dsp := rfl
@[simp] theorem State.setItem_cranes (s : State) (n : Nat) (r : Item) : (s.setItem n r).cranes = s.cranes := rfl
@[simp] theorem State.setItem_stu (s : State) (n : Nat) (r : Item) : (s.setItem n r).stu = s.stu := rfl
@[simp] theorem State.setItem_circ (s : State) (n : Nat) (r : Item) : (s.setItem n r).circ = s.circ := rfl
@[simp] theorem State.setItem_riu (s : State) (n : Nat) (r : Item) : (s.setItem n r).riu = s.riu := rfl
@[simp] theorem State.setItem_fiu (s : State) (n : Nat) (r : Item) : (s.setItem n r).fiu = s.fiu := rfl
@[simp] theorem State.setItem_formatOk (s : State) (n : Nat) (r : Item) : (s.setItem n r).rsc.formatOk = s.rsc.formatOk := rfl
@[simp] theorem State.setItem_slots (s : State) (n : Nat) (r : Item) : (s.setItem n r).rsc.slots = s.rsc.slots := rfl
@[simp] theorem State.setItem_bins (s : State) (n : Nat) (r : Item) : (s.setItem n r).rsc.bins = s.rsc.bins := rfl
@[simp] theorem State.setItem_borrowers (s : State) (n : Nat) (r : Item) : (s.setItem n r).rsc.borrowers = s.rsc.borrowers := rfl
@[simp] theorem State.setItem_loans (s : State) (n : Nat) (r : Item) : (s.setItem n r).rsc.loans = s.rsc.loans := rfl
@[simp] theorem State.setItem_holds (s : State) (n : Nat) (r : Item) : (s.setItem n r).rsc.holds = s.rsc.holds := rfl
@[simp] theorem State.setItem_tray (s : State) (n : Nat) (r : Item) : (s.setItem n r).rsc.tray = s.rsc.tray := rfl
@[simp] theorem State.setItem_policy (s : State) (n : Nat) (r : Item) : (s.setItem n r).rsc.policy = s.rsc.policy := rfl
@[simp] theorem State.setItem_calBase (s : State) (n : Nat) (r : Item) : (s.setItem n r).rsc.calBase = s.rsc.calBase := rfl
@[simp] theorem State.setItem_closedDays (s : State) (n : Nat) (r : Item) : (s.setItem n r).rsc.closedDays = s.rsc.closedDays := rfl
@[simp] theorem State.setItem_today (s : State) (n : Nat) (r : Item) : (s.setItem n r).rsc.today = s.rsc.today := rfl
@[simp] theorem State.setItem_inService (s : State) (n : Nat) (r : Item) : (s.setItem n r).rsc.inService = s.rsc.inService := rfl
@[simp] theorem State.setItem_settings (s : State) (n : Nat) (r : Item) : (s.setItem n r).rsc.settings = s.rsc.settings := rfl

/-! `State.delItem`. -/
@[simp] theorem State.delItem_pending (s : State) (n : Nat) : (s.delItem n).pending = s.pending := rfl
@[simp] theorem State.delItem_outputs (s : State) (n : Nat) : (s.delItem n).outputs = s.outputs := rfl
@[simp] theorem State.delItem_svp (s : State) (n : Nat) : (s.delItem n).svp = s.svp := rfl
@[simp] theorem State.delItem_clu (s : State) (n : Nat) : (s.delItem n).clu = s.clu := rfl
@[simp] theorem State.delItem_dsp (s : State) (n : Nat) : (s.delItem n).dsp = s.dsp := rfl
@[simp] theorem State.delItem_cranes (s : State) (n : Nat) : (s.delItem n).cranes = s.cranes := rfl
@[simp] theorem State.delItem_stu (s : State) (n : Nat) : (s.delItem n).stu = s.stu := rfl
@[simp] theorem State.delItem_circ (s : State) (n : Nat) : (s.delItem n).circ = s.circ := rfl
@[simp] theorem State.delItem_riu (s : State) (n : Nat) : (s.delItem n).riu = s.riu := rfl
@[simp] theorem State.delItem_fiu (s : State) (n : Nat) : (s.delItem n).fiu = s.fiu := rfl
@[simp] theorem State.delItem_formatOk (s : State) (n : Nat) : (s.delItem n).rsc.formatOk = s.rsc.formatOk := rfl
@[simp] theorem State.delItem_slots (s : State) (n : Nat) : (s.delItem n).rsc.slots = s.rsc.slots := rfl
@[simp] theorem State.delItem_bins (s : State) (n : Nat) : (s.delItem n).rsc.bins = s.rsc.bins := rfl
@[simp] theorem State.delItem_borrowers (s : State) (n : Nat) : (s.delItem n).rsc.borrowers = s.rsc.borrowers := rfl
@[simp] theorem State.delItem_loans (s : State) (n : Nat) : (s.delItem n).rsc.loans = s.rsc.loans := rfl
@[simp] theorem State.delItem_holds (s : State) (n : Nat) : (s.delItem n).rsc.holds = s.rsc.holds := rfl
@[simp] theorem State.delItem_tray (s : State) (n : Nat) : (s.delItem n).rsc.tray = s.rsc.tray := rfl
@[simp] theorem State.delItem_policy (s : State) (n : Nat) : (s.delItem n).rsc.policy = s.rsc.policy := rfl
@[simp] theorem State.delItem_calBase (s : State) (n : Nat) : (s.delItem n).rsc.calBase = s.rsc.calBase := rfl
@[simp] theorem State.delItem_closedDays (s : State) (n : Nat) : (s.delItem n).rsc.closedDays = s.rsc.closedDays := rfl
@[simp] theorem State.delItem_today (s : State) (n : Nat) : (s.delItem n).rsc.today = s.rsc.today := rfl
@[simp] theorem State.delItem_inService (s : State) (n : Nat) : (s.delItem n).rsc.inService = s.rsc.inService := rfl
@[simp] theorem State.delItem_settings (s : State) (n : Nat) : (s.delItem n).rsc.settings = s.rsc.settings := rfl

/-! `State.setBorrower`. -/
@[simp] theorem State.setBorrower_pending (s : State) (n : Nat) (r : Borrower) : (s.setBorrower n r).pending = s.pending := rfl
@[simp] theorem State.setBorrower_outputs (s : State) (n : Nat) (r : Borrower) : (s.setBorrower n r).outputs = s.outputs := rfl
@[simp] theorem State.setBorrower_svp (s : State) (n : Nat) (r : Borrower) : (s.setBorrower n r).svp = s.svp := rfl
@[simp] theorem State.setBorrower_clu (s : State) (n : Nat) (r : Borrower) : (s.setBorrower n r).clu = s.clu := rfl
@[simp] theorem State.setBorrower_dsp (s : State) (n : Nat) (r : Borrower) : (s.setBorrower n r).dsp = s.dsp := rfl
@[simp] theorem State.setBorrower_cranes (s : State) (n : Nat) (r : Borrower) : (s.setBorrower n r).cranes = s.cranes := rfl
@[simp] theorem State.setBorrower_stu (s : State) (n : Nat) (r : Borrower) : (s.setBorrower n r).stu = s.stu := rfl
@[simp] theorem State.setBorrower_circ (s : State) (n : Nat) (r : Borrower) : (s.setBorrower n r).circ = s.circ := rfl
@[simp] theorem State.setBorrower_riu (s : State) (n : Nat) (r : Borrower) : (s.setBorrower n r).riu = s.riu := rfl
@[simp] theorem State.setBorrower_fiu (s : State) (n : Nat) (r : Borrower) : (s.setBorrower n r).fiu = s.fiu := rfl
@[simp] theorem State.setBorrower_formatOk (s : State) (n : Nat) (r : Borrower) : (s.setBorrower n r).rsc.formatOk = s.rsc.formatOk := rfl
@[simp] theorem State.setBorrower_slots (s : State) (n : Nat) (r : Borrower) : (s.setBorrower n r).rsc.slots = s.rsc.slots := rfl
@[simp] theorem State.setBorrower_bins (s : State) (n : Nat) (r : Borrower) : (s.setBorrower n r).rsc.bins = s.rsc.bins := rfl
@[simp] theorem State.setBorrower_items (s : State) (n : Nat) (r : Borrower) : (s.setBorrower n r).rsc.items = s.rsc.items := rfl
@[simp] theorem State.setBorrower_loans (s : State) (n : Nat) (r : Borrower) : (s.setBorrower n r).rsc.loans = s.rsc.loans := rfl
@[simp] theorem State.setBorrower_holds (s : State) (n : Nat) (r : Borrower) : (s.setBorrower n r).rsc.holds = s.rsc.holds := rfl
@[simp] theorem State.setBorrower_tray (s : State) (n : Nat) (r : Borrower) : (s.setBorrower n r).rsc.tray = s.rsc.tray := rfl
@[simp] theorem State.setBorrower_policy (s : State) (n : Nat) (r : Borrower) : (s.setBorrower n r).rsc.policy = s.rsc.policy := rfl
@[simp] theorem State.setBorrower_calBase (s : State) (n : Nat) (r : Borrower) : (s.setBorrower n r).rsc.calBase = s.rsc.calBase := rfl
@[simp] theorem State.setBorrower_closedDays (s : State) (n : Nat) (r : Borrower) : (s.setBorrower n r).rsc.closedDays = s.rsc.closedDays := rfl
@[simp] theorem State.setBorrower_today (s : State) (n : Nat) (r : Borrower) : (s.setBorrower n r).rsc.today = s.rsc.today := rfl
@[simp] theorem State.setBorrower_inService (s : State) (n : Nat) (r : Borrower) : (s.setBorrower n r).rsc.inService = s.rsc.inService := rfl
@[simp] theorem State.setBorrower_settings (s : State) (n : Nat) (r : Borrower) : (s.setBorrower n r).rsc.settings = s.rsc.settings := rfl

/-! `State.setLoan`. -/
@[simp] theorem State.setLoan_pending (s : State) (n : Nat) (r : Loan) : (s.setLoan n r).pending = s.pending := rfl
@[simp] theorem State.setLoan_outputs (s : State) (n : Nat) (r : Loan) : (s.setLoan n r).outputs = s.outputs := rfl
@[simp] theorem State.setLoan_svp (s : State) (n : Nat) (r : Loan) : (s.setLoan n r).svp = s.svp := rfl
@[simp] theorem State.setLoan_clu (s : State) (n : Nat) (r : Loan) : (s.setLoan n r).clu = s.clu := rfl
@[simp] theorem State.setLoan_dsp (s : State) (n : Nat) (r : Loan) : (s.setLoan n r).dsp = s.dsp := rfl
@[simp] theorem State.setLoan_cranes (s : State) (n : Nat) (r : Loan) : (s.setLoan n r).cranes = s.cranes := rfl
@[simp] theorem State.setLoan_stu (s : State) (n : Nat) (r : Loan) : (s.setLoan n r).stu = s.stu := rfl
@[simp] theorem State.setLoan_circ (s : State) (n : Nat) (r : Loan) : (s.setLoan n r).circ = s.circ := rfl
@[simp] theorem State.setLoan_riu (s : State) (n : Nat) (r : Loan) : (s.setLoan n r).riu = s.riu := rfl
@[simp] theorem State.setLoan_fiu (s : State) (n : Nat) (r : Loan) : (s.setLoan n r).fiu = s.fiu := rfl
@[simp] theorem State.setLoan_formatOk (s : State) (n : Nat) (r : Loan) : (s.setLoan n r).rsc.formatOk = s.rsc.formatOk := rfl
@[simp] theorem State.setLoan_slots (s : State) (n : Nat) (r : Loan) : (s.setLoan n r).rsc.slots = s.rsc.slots := rfl
@[simp] theorem State.setLoan_bins (s : State) (n : Nat) (r : Loan) : (s.setLoan n r).rsc.bins = s.rsc.bins := rfl
@[simp] theorem State.setLoan_items (s : State) (n : Nat) (r : Loan) : (s.setLoan n r).rsc.items = s.rsc.items := rfl
@[simp] theorem State.setLoan_borrowers (s : State) (n : Nat) (r : Loan) : (s.setLoan n r).rsc.borrowers = s.rsc.borrowers := rfl
@[simp] theorem State.setLoan_holds (s : State) (n : Nat) (r : Loan) : (s.setLoan n r).rsc.holds = s.rsc.holds := rfl
@[simp] theorem State.setLoan_tray (s : State) (n : Nat) (r : Loan) : (s.setLoan n r).rsc.tray = s.rsc.tray := rfl
@[simp] theorem State.setLoan_policy (s : State) (n : Nat) (r : Loan) : (s.setLoan n r).rsc.policy = s.rsc.policy := rfl
@[simp] theorem State.setLoan_calBase (s : State) (n : Nat) (r : Loan) : (s.setLoan n r).rsc.calBase = s.rsc.calBase := rfl
@[simp] theorem State.setLoan_closedDays (s : State) (n : Nat) (r : Loan) : (s.setLoan n r).rsc.closedDays = s.rsc.closedDays := rfl
@[simp] theorem State.setLoan_today (s : State) (n : Nat) (r : Loan) : (s.setLoan n r).rsc.today = s.rsc.today := rfl
@[simp] theorem State.setLoan_inService (s : State) (n : Nat) (r : Loan) : (s.setLoan n r).rsc.inService = s.rsc.inService := rfl
@[simp] theorem State.setLoan_settings (s : State) (n : Nat) (r : Loan) : (s.setLoan n r).rsc.settings = s.rsc.settings := rfl

/-! `State.delLoan`. -/
@[simp] theorem State.delLoan_pending (s : State) (n : Nat) : (s.delLoan n).pending = s.pending := rfl
@[simp] theorem State.delLoan_outputs (s : State) (n : Nat) : (s.delLoan n).outputs = s.outputs := rfl
@[simp] theorem State.delLoan_svp (s : State) (n : Nat) : (s.delLoan n).svp = s.svp := rfl
@[simp] theorem State.delLoan_clu (s : State) (n : Nat) : (s.delLoan n).clu = s.clu := rfl
@[simp] theorem State.delLoan_dsp (s : State) (n : Nat) : (s.delLoan n).dsp = s.dsp := rfl
@[simp] theorem State.delLoan_cranes (s : State) (n : Nat) : (s.delLoan n).cranes = s.cranes := rfl
@[simp] theorem State.delLoan_stu (s : State) (n : Nat) : (s.delLoan n).stu = s.stu := rfl
@[simp] theorem State.delLoan_circ (s : State) (n : Nat) : (s.delLoan n).circ = s.circ := rfl
@[simp] theorem State.delLoan_riu (s : State) (n : Nat) : (s.delLoan n).riu = s.riu := rfl
@[simp] theorem State.delLoan_fiu (s : State) (n : Nat) : (s.delLoan n).fiu = s.fiu := rfl
@[simp] theorem State.delLoan_formatOk (s : State) (n : Nat) : (s.delLoan n).rsc.formatOk = s.rsc.formatOk := rfl
@[simp] theorem State.delLoan_slots (s : State) (n : Nat) : (s.delLoan n).rsc.slots = s.rsc.slots := rfl
@[simp] theorem State.delLoan_bins (s : State) (n : Nat) : (s.delLoan n).rsc.bins = s.rsc.bins := rfl
@[simp] theorem State.delLoan_items (s : State) (n : Nat) : (s.delLoan n).rsc.items = s.rsc.items := rfl
@[simp] theorem State.delLoan_borrowers (s : State) (n : Nat) : (s.delLoan n).rsc.borrowers = s.rsc.borrowers := rfl
@[simp] theorem State.delLoan_holds (s : State) (n : Nat) : (s.delLoan n).rsc.holds = s.rsc.holds := rfl
@[simp] theorem State.delLoan_tray (s : State) (n : Nat) : (s.delLoan n).rsc.tray = s.rsc.tray := rfl
@[simp] theorem State.delLoan_policy (s : State) (n : Nat) : (s.delLoan n).rsc.policy = s.rsc.policy := rfl
@[simp] theorem State.delLoan_calBase (s : State) (n : Nat) : (s.delLoan n).rsc.calBase = s.rsc.calBase := rfl
@[simp] theorem State.delLoan_closedDays (s : State) (n : Nat) : (s.delLoan n).rsc.closedDays = s.rsc.closedDays := rfl
@[simp] theorem State.delLoan_today (s : State) (n : Nat) : (s.delLoan n).rsc.today = s.rsc.today := rfl
@[simp] theorem State.delLoan_inService (s : State) (n : Nat) : (s.delLoan n).rsc.inService = s.rsc.inService := rfl
@[simp] theorem State.delLoan_settings (s : State) (n : Nat) : (s.delLoan n).rsc.settings = s.rsc.settings := rfl

/-! `State.setHold`. -/
@[simp] theorem State.setHold_pending (s : State) (n : Nat) (r : Hold) : (s.setHold n r).pending = s.pending := rfl
@[simp] theorem State.setHold_outputs (s : State) (n : Nat) (r : Hold) : (s.setHold n r).outputs = s.outputs := rfl
@[simp] theorem State.setHold_svp (s : State) (n : Nat) (r : Hold) : (s.setHold n r).svp = s.svp := rfl
@[simp] theorem State.setHold_clu (s : State) (n : Nat) (r : Hold) : (s.setHold n r).clu = s.clu := rfl
@[simp] theorem State.setHold_dsp (s : State) (n : Nat) (r : Hold) : (s.setHold n r).dsp = s.dsp := rfl
@[simp] theorem State.setHold_cranes (s : State) (n : Nat) (r : Hold) : (s.setHold n r).cranes = s.cranes := rfl
@[simp] theorem State.setHold_stu (s : State) (n : Nat) (r : Hold) : (s.setHold n r).stu = s.stu := rfl
@[simp] theorem State.setHold_circ (s : State) (n : Nat) (r : Hold) : (s.setHold n r).circ = s.circ := rfl
@[simp] theorem State.setHold_riu (s : State) (n : Nat) (r : Hold) : (s.setHold n r).riu = s.riu := rfl
@[simp] theorem State.setHold_fiu (s : State) (n : Nat) (r : Hold) : (s.setHold n r).fiu = s.fiu := rfl
@[simp] theorem State.setHold_formatOk (s : State) (n : Nat) (r : Hold) : (s.setHold n r).rsc.formatOk = s.rsc.formatOk := rfl
@[simp] theorem State.setHold_slots (s : State) (n : Nat) (r : Hold) : (s.setHold n r).rsc.slots = s.rsc.slots := rfl
@[simp] theorem State.setHold_bins (s : State) (n : Nat) (r : Hold) : (s.setHold n r).rsc.bins = s.rsc.bins := rfl
@[simp] theorem State.setHold_items (s : State) (n : Nat) (r : Hold) : (s.setHold n r).rsc.items = s.rsc.items := rfl
@[simp] theorem State.setHold_borrowers (s : State) (n : Nat) (r : Hold) : (s.setHold n r).rsc.borrowers = s.rsc.borrowers := rfl
@[simp] theorem State.setHold_loans (s : State) (n : Nat) (r : Hold) : (s.setHold n r).rsc.loans = s.rsc.loans := rfl
@[simp] theorem State.setHold_tray (s : State) (n : Nat) (r : Hold) : (s.setHold n r).rsc.tray = s.rsc.tray := rfl
@[simp] theorem State.setHold_policy (s : State) (n : Nat) (r : Hold) : (s.setHold n r).rsc.policy = s.rsc.policy := rfl
@[simp] theorem State.setHold_calBase (s : State) (n : Nat) (r : Hold) : (s.setHold n r).rsc.calBase = s.rsc.calBase := rfl
@[simp] theorem State.setHold_closedDays (s : State) (n : Nat) (r : Hold) : (s.setHold n r).rsc.closedDays = s.rsc.closedDays := rfl
@[simp] theorem State.setHold_today (s : State) (n : Nat) (r : Hold) : (s.setHold n r).rsc.today = s.rsc.today := rfl
@[simp] theorem State.setHold_inService (s : State) (n : Nat) (r : Hold) : (s.setHold n r).rsc.inService = s.rsc.inService := rfl
@[simp] theorem State.setHold_settings (s : State) (n : Nat) (r : Hold) : (s.setHold n r).rsc.settings = s.rsc.settings := rfl

/-! `State.delHold`. -/
@[simp] theorem State.delHold_pending (s : State) (n : Nat) : (s.delHold n).pending = s.pending := rfl
@[simp] theorem State.delHold_outputs (s : State) (n : Nat) : (s.delHold n).outputs = s.outputs := rfl
@[simp] theorem State.delHold_svp (s : State) (n : Nat) : (s.delHold n).svp = s.svp := rfl
@[simp] theorem State.delHold_clu (s : State) (n : Nat) : (s.delHold n).clu = s.clu := rfl
@[simp] theorem State.delHold_dsp (s : State) (n : Nat) : (s.delHold n).dsp = s.dsp := rfl
@[simp] theorem State.delHold_cranes (s : State) (n : Nat) : (s.delHold n).cranes = s.cranes := rfl
@[simp] theorem State.delHold_stu (s : State) (n : Nat) : (s.delHold n).stu = s.stu := rfl
@[simp] theorem State.delHold_circ (s : State) (n : Nat) : (s.delHold n).circ = s.circ := rfl
@[simp] theorem State.delHold_riu (s : State) (n : Nat) : (s.delHold n).riu = s.riu := rfl
@[simp] theorem State.delHold_fiu (s : State) (n : Nat) : (s.delHold n).fiu = s.fiu := rfl
@[simp] theorem State.delHold_formatOk (s : State) (n : Nat) : (s.delHold n).rsc.formatOk = s.rsc.formatOk := rfl
@[simp] theorem State.delHold_slots (s : State) (n : Nat) : (s.delHold n).rsc.slots = s.rsc.slots := rfl
@[simp] theorem State.delHold_bins (s : State) (n : Nat) : (s.delHold n).rsc.bins = s.rsc.bins := rfl
@[simp] theorem State.delHold_items (s : State) (n : Nat) : (s.delHold n).rsc.items = s.rsc.items := rfl
@[simp] theorem State.delHold_borrowers (s : State) (n : Nat) : (s.delHold n).rsc.borrowers = s.rsc.borrowers := rfl
@[simp] theorem State.delHold_loans (s : State) (n : Nat) : (s.delHold n).rsc.loans = s.rsc.loans := rfl
@[simp] theorem State.delHold_tray (s : State) (n : Nat) : (s.delHold n).rsc.tray = s.rsc.tray := rfl
@[simp] theorem State.delHold_policy (s : State) (n : Nat) : (s.delHold n).rsc.policy = s.rsc.policy := rfl
@[simp] theorem State.delHold_calBase (s : State) (n : Nat) : (s.delHold n).rsc.calBase = s.rsc.calBase := rfl
@[simp] theorem State.delHold_closedDays (s : State) (n : Nat) : (s.delHold n).rsc.closedDays = s.rsc.closedDays := rfl
@[simp] theorem State.delHold_today (s : State) (n : Nat) : (s.delHold n).rsc.today = s.rsc.today := rfl
@[simp] theorem State.delHold_inService (s : State) (n : Nat) : (s.delHold n).rsc.inService = s.rsc.inService := rfl
@[simp] theorem State.delHold_settings (s : State) (n : Nat) : (s.delHold n).rsc.settings = s.rsc.settings := rfl

/-! `State.setJob`. -/
@[simp] theorem State.setJob_pending (s : State) (n : Nat) (r : Job) : (s.setJob n r).pending = s.pending := rfl
@[simp] theorem State.setJob_outputs (s : State) (n : Nat) (r : Job) : (s.setJob n r).outputs = s.outputs := rfl
@[simp] theorem State.setJob_svp (s : State) (n : Nat) (r : Job) : (s.setJob n r).svp = s.svp := rfl
@[simp] theorem State.setJob_rsc (s : State) (n : Nat) (r : Job) : (s.setJob n r).rsc = s.rsc := rfl
@[simp] theorem State.setJob_clu (s : State) (n : Nat) (r : Job) : (s.setJob n r).clu = s.clu := rfl
@[simp] theorem State.setJob_cranes (s : State) (n : Nat) (r : Job) : (s.setJob n r).cranes = s.cranes := rfl
@[simp] theorem State.setJob_stu (s : State) (n : Nat) (r : Job) : (s.setJob n r).stu = s.stu := rfl
@[simp] theorem State.setJob_circ (s : State) (n : Nat) (r : Job) : (s.setJob n r).circ = s.circ := rfl
@[simp] theorem State.setJob_riu (s : State) (n : Nat) (r : Job) : (s.setJob n r).riu = s.riu := rfl
@[simp] theorem State.setJob_fiu (s : State) (n : Nat) (r : Job) : (s.setJob n r).fiu = s.fiu := rfl
@[simp] theorem State.setJob_lastJob (s : State) (n : Nat) (r : Job) : (s.setJob n r).dsp.lastJob = s.dsp.lastJob := rfl
@[simp] theorem State.setJob_queues (s : State) (n : Nat) (r : Job) : (s.setJob n r).dsp.queues = s.dsp.queues := rfl
@[simp] theorem State.setJob_audit (s : State) (n : Nat) (r : Job) : (s.setJob n r).dsp.audit = s.dsp.audit := rfl

/-! `State.delJob`. -/
@[simp] theorem State.delJob_pending (s : State) (n : Nat) : (s.delJob n).pending = s.pending := rfl
@[simp] theorem State.delJob_outputs (s : State) (n : Nat) : (s.delJob n).outputs = s.outputs := rfl
@[simp] theorem State.delJob_svp (s : State) (n : Nat) : (s.delJob n).svp = s.svp := rfl
@[simp] theorem State.delJob_rsc (s : State) (n : Nat) : (s.delJob n).rsc = s.rsc := rfl
@[simp] theorem State.delJob_clu (s : State) (n : Nat) : (s.delJob n).clu = s.clu := rfl
@[simp] theorem State.delJob_cranes (s : State) (n : Nat) : (s.delJob n).cranes = s.cranes := rfl
@[simp] theorem State.delJob_stu (s : State) (n : Nat) : (s.delJob n).stu = s.stu := rfl
@[simp] theorem State.delJob_circ (s : State) (n : Nat) : (s.delJob n).circ = s.circ := rfl
@[simp] theorem State.delJob_riu (s : State) (n : Nat) : (s.delJob n).riu = s.riu := rfl
@[simp] theorem State.delJob_fiu (s : State) (n : Nat) : (s.delJob n).fiu = s.fiu := rfl
@[simp] theorem State.delJob_lastJob (s : State) (n : Nat) : (s.delJob n).dsp.lastJob = s.dsp.lastJob := rfl
@[simp] theorem State.delJob_queues (s : State) (n : Nat) : (s.delJob n).dsp.queues = s.dsp.queues := rfl
@[simp] theorem State.delJob_audit (s : State) (n : Nat) : (s.delJob n).dsp.audit = s.dsp.audit := rfl

/-! `State.setQueue`. -/
@[simp] theorem State.setQueue_pending (s : State) (a : Aisle) (q : Queue) : (s.setQueue a q).pending = s.pending := rfl
@[simp] theorem State.setQueue_outputs (s : State) (a : Aisle) (q : Queue) : (s.setQueue a q).outputs = s.outputs := rfl
@[simp] theorem State.setQueue_svp (s : State) (a : Aisle) (q : Queue) : (s.setQueue a q).svp = s.svp := rfl
@[simp] theorem State.setQueue_rsc (s : State) (a : Aisle) (q : Queue) : (s.setQueue a q).rsc = s.rsc := rfl
@[simp] theorem State.setQueue_clu (s : State) (a : Aisle) (q : Queue) : (s.setQueue a q).clu = s.clu := rfl
@[simp] theorem State.setQueue_cranes (s : State) (a : Aisle) (q : Queue) : (s.setQueue a q).cranes = s.cranes := rfl
@[simp] theorem State.setQueue_stu (s : State) (a : Aisle) (q : Queue) : (s.setQueue a q).stu = s.stu := rfl
@[simp] theorem State.setQueue_circ (s : State) (a : Aisle) (q : Queue) : (s.setQueue a q).circ = s.circ := rfl
@[simp] theorem State.setQueue_riu (s : State) (a : Aisle) (q : Queue) : (s.setQueue a q).riu = s.riu := rfl
@[simp] theorem State.setQueue_fiu (s : State) (a : Aisle) (q : Queue) : (s.setQueue a q).fiu = s.fiu := rfl
@[simp] theorem State.setQueue_jobs (s : State) (a : Aisle) (q : Queue) : (s.setQueue a q).dsp.jobs = s.dsp.jobs := rfl
@[simp] theorem State.setQueue_lastJob (s : State) (a : Aisle) (q : Queue) : (s.setQueue a q).dsp.lastJob = s.dsp.lastJob := rfl
@[simp] theorem State.setQueue_audit (s : State) (a : Aisle) (q : Queue) : (s.setQueue a q).dsp.audit = s.dsp.audit := rfl

/-! `State.setCrane`. -/
@[simp] theorem State.setCrane_pending (s : State) (a : Aisle) (c : Crane) : (s.setCrane a c).pending = s.pending := rfl
@[simp] theorem State.setCrane_outputs (s : State) (a : Aisle) (c : Crane) : (s.setCrane a c).outputs = s.outputs := rfl
@[simp] theorem State.setCrane_svp (s : State) (a : Aisle) (c : Crane) : (s.setCrane a c).svp = s.svp := rfl
@[simp] theorem State.setCrane_rsc (s : State) (a : Aisle) (c : Crane) : (s.setCrane a c).rsc = s.rsc := rfl
@[simp] theorem State.setCrane_clu (s : State) (a : Aisle) (c : Crane) : (s.setCrane a c).clu = s.clu := rfl
@[simp] theorem State.setCrane_dsp (s : State) (a : Aisle) (c : Crane) : (s.setCrane a c).dsp = s.dsp := rfl
@[simp] theorem State.setCrane_stu (s : State) (a : Aisle) (c : Crane) : (s.setCrane a c).stu = s.stu := rfl
@[simp] theorem State.setCrane_circ (s : State) (a : Aisle) (c : Crane) : (s.setCrane a c).circ = s.circ := rfl
@[simp] theorem State.setCrane_riu (s : State) (a : Aisle) (c : Crane) : (s.setCrane a c).riu = s.riu := rfl
@[simp] theorem State.setCrane_fiu (s : State) (a : Aisle) (c : Crane) : (s.setCrane a c).fiu = s.fiu := rfl

/-! `State.setStation`. -/
@[simp] theorem State.setStation_pending (s : State) (t : StationNo) (r : Station) : (s.setStation t r).pending = s.pending := rfl
@[simp] theorem State.setStation_outputs (s : State) (t : StationNo) (r : Station) : (s.setStation t r).outputs = s.outputs := rfl
@[simp] theorem State.setStation_svp (s : State) (t : StationNo) (r : Station) : (s.setStation t r).svp = s.svp := rfl
@[simp] theorem State.setStation_rsc (s : State) (t : StationNo) (r : Station) : (s.setStation t r).rsc = s.rsc := rfl
@[simp] theorem State.setStation_clu (s : State) (t : StationNo) (r : Station) : (s.setStation t r).clu = s.clu := rfl
@[simp] theorem State.setStation_dsp (s : State) (t : StationNo) (r : Station) : (s.setStation t r).dsp = s.dsp := rfl
@[simp] theorem State.setStation_cranes (s : State) (t : StationNo) (r : Station) : (s.setStation t r).cranes = s.cranes := rfl
@[simp] theorem State.setStation_circ (s : State) (t : StationNo) (r : Station) : (s.setStation t r).circ = s.circ := rfl
@[simp] theorem State.setStation_riu (s : State) (t : StationNo) (r : Station) : (s.setStation t r).riu = s.riu := rfl
@[simp] theorem State.setStation_fiu (s : State) (t : StationNo) (r : Station) : (s.setStation t r).fiu = s.fiu := rfl
@[simp] theorem State.setStation_batches (s : State) (t : StationNo) (r : Station) : (s.setStation t r).stu.batches = s.stu.batches := rfl
@[simp] theorem State.setStation_batchSeq (s : State) (t : StationNo) (r : Station) : (s.setStation t r).stu.batchSeq = s.stu.batchSeq := rfl

/-! `State.setBatch`. -/
@[simp] theorem State.setBatch_pending (s : State) (n : Nat) (r : Batch) : (s.setBatch n r).pending = s.pending := rfl
@[simp] theorem State.setBatch_outputs (s : State) (n : Nat) (r : Batch) : (s.setBatch n r).outputs = s.outputs := rfl
@[simp] theorem State.setBatch_svp (s : State) (n : Nat) (r : Batch) : (s.setBatch n r).svp = s.svp := rfl
@[simp] theorem State.setBatch_rsc (s : State) (n : Nat) (r : Batch) : (s.setBatch n r).rsc = s.rsc := rfl
@[simp] theorem State.setBatch_clu (s : State) (n : Nat) (r : Batch) : (s.setBatch n r).clu = s.clu := rfl
@[simp] theorem State.setBatch_dsp (s : State) (n : Nat) (r : Batch) : (s.setBatch n r).dsp = s.dsp := rfl
@[simp] theorem State.setBatch_cranes (s : State) (n : Nat) (r : Batch) : (s.setBatch n r).cranes = s.cranes := rfl
@[simp] theorem State.setBatch_circ (s : State) (n : Nat) (r : Batch) : (s.setBatch n r).circ = s.circ := rfl
@[simp] theorem State.setBatch_riu (s : State) (n : Nat) (r : Batch) : (s.setBatch n r).riu = s.riu := rfl
@[simp] theorem State.setBatch_fiu (s : State) (n : Nat) (r : Batch) : (s.setBatch n r).fiu = s.fiu := rfl
@[simp] theorem State.setBatch_stations (s : State) (n : Nat) (r : Batch) : (s.setBatch n r).stu.stations = s.stu.stations := rfl
@[simp] theorem State.setBatch_batchSeq (s : State) (n : Nat) (r : Batch) : (s.setBatch n r).stu.batchSeq = s.stu.batchSeq := rfl

/-! `State.setZone`. -/
@[simp] theorem State.setZone_pending (s : State) (z : ZoneNo) (r : Zone) : (s.setZone z r).pending = s.pending := rfl
@[simp] theorem State.setZone_outputs (s : State) (z : ZoneNo) (r : Zone) : (s.setZone z r).outputs = s.outputs := rfl
@[simp] theorem State.setZone_svp (s : State) (z : ZoneNo) (r : Zone) : (s.setZone z r).svp = s.svp := rfl
@[simp] theorem State.setZone_rsc (s : State) (z : ZoneNo) (r : Zone) : (s.setZone z r).rsc = s.rsc := rfl
@[simp] theorem State.setZone_clu (s : State) (z : ZoneNo) (r : Zone) : (s.setZone z r).clu = s.clu := rfl
@[simp] theorem State.setZone_dsp (s : State) (z : ZoneNo) (r : Zone) : (s.setZone z r).dsp = s.dsp := rfl
@[simp] theorem State.setZone_cranes (s : State) (z : ZoneNo) (r : Zone) : (s.setZone z r).cranes = s.cranes := rfl
@[simp] theorem State.setZone_stu (s : State) (z : ZoneNo) (r : Zone) : (s.setZone z r).stu = s.stu := rfl
@[simp] theorem State.setZone_circ (s : State) (z : ZoneNo) (r : Zone) : (s.setZone z r).circ = s.circ := rfl
@[simp] theorem State.setZone_riu (s : State) (z : ZoneNo) (r : Zone) : (s.setZone z r).riu = s.riu := rfl
@[simp] theorem State.setZone_building (s : State) (z : ZoneNo) (r : Zone) : (s.setZone z r).fiu.building = s.fiu.building := rfl
@[simp] theorem State.setZone_libraryClaim (s : State) (z : ZoneNo) (r : Zone) : (s.setZone z r).fiu.libraryClaim = s.fiu.libraryClaim := rfl
@[simp] theorem State.setZone_buildingClaim (s : State) (z : ZoneNo) (r : Zone) : (s.setZone z r).fiu.buildingClaim = s.fiu.buildingClaim := rfl
@[simp] theorem State.setZone_epoch (s : State) (z : ZoneNo) (r : Zone) : (s.setZone z r).fiu.epoch = s.fiu.epoch := rfl
@[simp] theorem State.setZone_lapsed (s : State) (z : ZoneNo) (r : Zone) : (s.setZone z r).fiu.lapsed = s.fiu.lapsed := rfl
@[simp] theorem State.setZone_supTimer (s : State) (z : ZoneNo) (r : Zone) : (s.setZone z r).fiu.supTimer = s.fiu.supTimer := rfl

/-! `State.send`. -/
@[simp] theorem State.send_pending (s : State) (a : Aisle) (o : LinkOrder) : (s.send a o).pending = s.pending := rfl
@[simp] theorem State.send_svp (s : State) (a : Aisle) (o : LinkOrder) : (s.send a o).svp = s.svp := rfl
@[simp] theorem State.send_rsc (s : State) (a : Aisle) (o : LinkOrder) : (s.send a o).rsc = s.rsc := rfl
@[simp] theorem State.send_clu (s : State) (a : Aisle) (o : LinkOrder) : (s.send a o).clu = s.clu := rfl
@[simp] theorem State.send_dsp (s : State) (a : Aisle) (o : LinkOrder) : (s.send a o).dsp = s.dsp := rfl
@[simp] theorem State.send_cranes (s : State) (a : Aisle) (o : LinkOrder) : (s.send a o).cranes = s.cranes := rfl
@[simp] theorem State.send_stu (s : State) (a : Aisle) (o : LinkOrder) : (s.send a o).stu = s.stu := rfl
@[simp] theorem State.send_circ (s : State) (a : Aisle) (o : LinkOrder) : (s.send a o).circ = s.circ := rfl
@[simp] theorem State.send_riu (s : State) (a : Aisle) (o : LinkOrder) : (s.send a o).riu = s.riu := rfl
@[simp] theorem State.send_fiu (s : State) (a : Aisle) (o : LinkOrder) : (s.send a o).fiu = s.fiu := rfl

/-! `State.sendDivert`. -/
@[simp] theorem State.sendDivert_pending (s : State) (d : Divert) : (s.sendDivert d).pending = s.pending := rfl
@[simp] theorem State.sendDivert_svp (s : State) (d : Divert) : (s.sendDivert d).svp = s.svp := rfl
@[simp] theorem State.sendDivert_rsc (s : State) (d : Divert) : (s.sendDivert d).rsc = s.rsc := rfl
@[simp] theorem State.sendDivert_clu (s : State) (d : Divert) : (s.sendDivert d).clu = s.clu := rfl
@[simp] theorem State.sendDivert_dsp (s : State) (d : Divert) : (s.sendDivert d).dsp = s.dsp := rfl
@[simp] theorem State.sendDivert_cranes (s : State) (d : Divert) : (s.sendDivert d).cranes = s.cranes := rfl
@[simp] theorem State.sendDivert_stu (s : State) (d : Divert) : (s.sendDivert d).stu = s.stu := rfl
@[simp] theorem State.sendDivert_circ (s : State) (d : Divert) : (s.sendDivert d).circ = s.circ := rfl
@[simp] theorem State.sendDivert_riu (s : State) (d : Divert) : (s.sendDivert d).riu = s.riu := rfl
@[simp] theorem State.sendDivert_fiu (s : State) (d : Divert) : (s.sendDivert d).fiu = s.fiu := rfl

/-! `State.sendTray`. -/
@[simp] theorem State.sendTray_pending (s : State) (n : Nat) (p : Pos) (k : Fin 8) : (s.sendTray n p k).pending = s.pending := rfl
@[simp] theorem State.sendTray_svp (s : State) (n : Nat) (p : Pos) (k : Fin 8) : (s.sendTray n p k).svp = s.svp := rfl
@[simp] theorem State.sendTray_rsc (s : State) (n : Nat) (p : Pos) (k : Fin 8) : (s.sendTray n p k).rsc = s.rsc := rfl
@[simp] theorem State.sendTray_clu (s : State) (n : Nat) (p : Pos) (k : Fin 8) : (s.sendTray n p k).clu = s.clu := rfl
@[simp] theorem State.sendTray_dsp (s : State) (n : Nat) (p : Pos) (k : Fin 8) : (s.sendTray n p k).dsp = s.dsp := rfl
@[simp] theorem State.sendTray_cranes (s : State) (n : Nat) (p : Pos) (k : Fin 8) : (s.sendTray n p k).cranes = s.cranes := rfl
@[simp] theorem State.sendTray_stu (s : State) (n : Nat) (p : Pos) (k : Fin 8) : (s.sendTray n p k).stu = s.stu := rfl
@[simp] theorem State.sendTray_circ (s : State) (n : Nat) (p : Pos) (k : Fin 8) : (s.sendTray n p k).circ = s.circ := rfl
@[simp] theorem State.sendTray_riu (s : State) (n : Nat) (p : Pos) (k : Fin 8) : (s.sendTray n p k).riu = s.riu := rfl
@[simp] theorem State.sendTray_fiu (s : State) (n : Nat) (p : Pos) (k : Fin 8) : (s.sendTray n p k).fiu = s.fiu := rfl

/-! `State.respond`. -/
@[simp] theorem State.respond_pending (s : State) (tag : Byte) (r : Reply) : (s.respond tag r).pending = s.pending := rfl
@[simp] theorem State.respond_outputs (s : State) (tag : Byte) (r : Reply) : (s.respond tag r).outputs = s.outputs := rfl
@[simp] theorem State.respond_rsc (s : State) (tag : Byte) (r : Reply) : (s.respond tag r).rsc = s.rsc := rfl
@[simp] theorem State.respond_clu (s : State) (tag : Byte) (r : Reply) : (s.respond tag r).clu = s.clu := rfl
@[simp] theorem State.respond_dsp (s : State) (tag : Byte) (r : Reply) : (s.respond tag r).dsp = s.dsp := rfl
@[simp] theorem State.respond_cranes (s : State) (tag : Byte) (r : Reply) : (s.respond tag r).cranes = s.cranes := rfl
@[simp] theorem State.respond_stu (s : State) (tag : Byte) (r : Reply) : (s.respond tag r).stu = s.stu := rfl
@[simp] theorem State.respond_circ (s : State) (tag : Byte) (r : Reply) : (s.respond tag r).circ = s.circ := rfl
@[simp] theorem State.respond_riu (s : State) (tag : Byte) (r : Reply) : (s.respond tag r).riu = s.riu := rfl
@[simp] theorem State.respond_fiu (s : State) (tag : Byte) (r : Reply) : (s.respond tag r).fiu = s.fiu := rfl
@[simp] theorem State.respond_notices (s : State) (tag : Byte) (r : Reply) : (s.respond tag r).svp.notices = s.svp.notices := rfl
@[simp] theorem State.respond_overrun (s : State) (tag : Byte) (r : Reply) : (s.respond tag r).svp.overrun = s.svp.overrun := rfl
@[simp] theorem State.respond_mountState (s : State) (tag : Byte) (r : Reply) : (s.respond tag r).svp.mountState = s.svp.mountState := rfl
@[simp] theorem State.respond_longOp (s : State) (tag : Byte) (r : Reply) : (s.respond tag r).svp.longOp = s.svp.longOp := rfl
@[simp] theorem State.respond_tick (s : State) (tag : Byte) (r : Reply) : (s.respond tag r).svp.tick = s.svp.tick := rfl
@[simp] theorem State.respond_keptStation (s : State) (tag : Byte) (r : Reply) : (s.respond tag r).svp.keptStation = s.svp.keptStation := rfl
@[simp] theorem State.respond_keptPort (s : State) (tag : Byte) (r : Reply) : (s.respond tag r).svp.keptPort = s.svp.keptPort := rfl

/-! `State.post`. -/
@[simp] theorem State.post_pending (s : State) (k : NoticeKind) (x y z : Nat) : (s.post k x y z).pending = s.pending := by unfold State.post; split <;> rfl
@[simp] theorem State.post_outputs (s : State) (k : NoticeKind) (x y z : Nat) : (s.post k x y z).outputs = s.outputs := by unfold State.post; split <;> rfl
@[simp] theorem State.post_rsc (s : State) (k : NoticeKind) (x y z : Nat) : (s.post k x y z).rsc = s.rsc := by unfold State.post; split <;> rfl
@[simp] theorem State.post_clu (s : State) (k : NoticeKind) (x y z : Nat) : (s.post k x y z).clu = s.clu := by unfold State.post; split <;> rfl
@[simp] theorem State.post_dsp (s : State) (k : NoticeKind) (x y z : Nat) : (s.post k x y z).dsp = s.dsp := by unfold State.post; split <;> rfl
@[simp] theorem State.post_cranes (s : State) (k : NoticeKind) (x y z : Nat) : (s.post k x y z).cranes = s.cranes := by unfold State.post; split <;> rfl
@[simp] theorem State.post_stu (s : State) (k : NoticeKind) (x y z : Nat) : (s.post k x y z).stu = s.stu := by unfold State.post; split <;> rfl
@[simp] theorem State.post_circ (s : State) (k : NoticeKind) (x y z : Nat) : (s.post k x y z).circ = s.circ := by unfold State.post; split <;> rfl
@[simp] theorem State.post_riu (s : State) (k : NoticeKind) (x y z : Nat) : (s.post k x y z).riu = s.riu := by unfold State.post; split <;> rfl
@[simp] theorem State.post_fiu (s : State) (k : NoticeKind) (x y z : Nat) : (s.post k x y z).fiu = s.fiu := by unfold State.post; split <;> rfl
@[simp] theorem State.post_resp (s : State) (k : NoticeKind) (x y z : Nat) : (s.post k x y z).svp.resp = s.svp.resp := by unfold State.post; split <;> rfl
@[simp] theorem State.post_mountState (s : State) (k : NoticeKind) (x y z : Nat) : (s.post k x y z).svp.mountState = s.svp.mountState := by unfold State.post; split <;> rfl
@[simp] theorem State.post_longOp (s : State) (k : NoticeKind) (x y z : Nat) : (s.post k x y z).svp.longOp = s.svp.longOp := by unfold State.post; split <;> rfl
@[simp] theorem State.post_tick (s : State) (k : NoticeKind) (x y z : Nat) : (s.post k x y z).svp.tick = s.svp.tick := by unfold State.post; split <;> rfl
@[simp] theorem State.post_keptStation (s : State) (k : NoticeKind) (x y z : Nat) : (s.post k x y z).svp.keptStation = s.svp.keptStation := by unfold State.post; split <;> rfl
@[simp] theorem State.post_keptPort (s : State) (k : NoticeKind) (x y z : Nat) : (s.post k x y z).svp.keptPort = s.svp.keptPort := by unfold State.post; split <;> rfl

/-! `State.vacate`, `State.setBinState`. -/
@[simp] theorem State.vacate_pending (s : State) (b : Nat) (n : BinState) : (s.vacate b n).pending = s.pending := by unfold State.vacate; (repeat' split) <;> rfl
@[simp] theorem State.vacate_outputs (s : State) (b : Nat) (n : BinState) : (s.vacate b n).outputs = s.outputs := by unfold State.vacate; (repeat' split) <;> rfl
@[simp] theorem State.vacate_svp (s : State) (b : Nat) (n : BinState) : (s.vacate b n).svp = s.svp := by unfold State.vacate; (repeat' split) <;> rfl
@[simp] theorem State.vacate_clu (s : State) (b : Nat) (n : BinState) : (s.vacate b n).clu = s.clu := by unfold State.vacate; (repeat' split) <;> rfl
@[simp] theorem State.vacate_dsp (s : State) (b : Nat) (n : BinState) : (s.vacate b n).dsp = s.dsp := by unfold State.vacate; (repeat' split) <;> rfl
@[simp] theorem State.vacate_cranes (s : State) (b : Nat) (n : BinState) : (s.vacate b n).cranes = s.cranes := by unfold State.vacate; (repeat' split) <;> rfl
@[simp] theorem State.vacate_stu (s : State) (b : Nat) (n : BinState) : (s.vacate b n).stu = s.stu := by unfold State.vacate; (repeat' split) <;> rfl
@[simp] theorem State.vacate_circ (s : State) (b : Nat) (n : BinState) : (s.vacate b n).circ = s.circ := by unfold State.vacate; (repeat' split) <;> rfl
@[simp] theorem State.vacate_riu (s : State) (b : Nat) (n : BinState) : (s.vacate b n).riu = s.riu := by unfold State.vacate; (repeat' split) <;> rfl
@[simp] theorem State.vacate_fiu (s : State) (b : Nat) (n : BinState) : (s.vacate b n).fiu = s.fiu := by unfold State.vacate; (repeat' split) <;> rfl
@[simp] theorem State.vacate_formatOk (s : State) (b : Nat) (n : BinState) : (s.vacate b n).rsc.formatOk = s.rsc.formatOk := by unfold State.vacate; (repeat' split) <;> rfl
@[simp] theorem State.vacate_items (s : State) (b : Nat) (n : BinState) : (s.vacate b n).rsc.items = s.rsc.items := by unfold State.vacate; (repeat' split) <;> rfl
@[simp] theorem State.vacate_borrowers (s : State) (b : Nat) (n : BinState) : (s.vacate b n).rsc.borrowers = s.rsc.borrowers := by unfold State.vacate; (repeat' split) <;> rfl
@[simp] theorem State.vacate_loans (s : State) (b : Nat) (n : BinState) : (s.vacate b n).rsc.loans = s.rsc.loans := by unfold State.vacate; (repeat' split) <;> rfl
@[simp] theorem State.vacate_holds (s : State) (b : Nat) (n : BinState) : (s.vacate b n).rsc.holds = s.rsc.holds := by unfold State.vacate; (repeat' split) <;> rfl
@[simp] theorem State.vacate_tray (s : State) (b : Nat) (n : BinState) : (s.vacate b n).rsc.tray = s.rsc.tray := by unfold State.vacate; (repeat' split) <;> rfl
@[simp] theorem State.vacate_policy (s : State) (b : Nat) (n : BinState) : (s.vacate b n).rsc.policy = s.rsc.policy := by unfold State.vacate; (repeat' split) <;> rfl
@[simp] theorem State.vacate_calBase (s : State) (b : Nat) (n : BinState) : (s.vacate b n).rsc.calBase = s.rsc.calBase := by unfold State.vacate; (repeat' split) <;> rfl
@[simp] theorem State.vacate_closedDays (s : State) (b : Nat) (n : BinState) : (s.vacate b n).rsc.closedDays = s.rsc.closedDays := by unfold State.vacate; (repeat' split) <;> rfl
@[simp] theorem State.vacate_today (s : State) (b : Nat) (n : BinState) : (s.vacate b n).rsc.today = s.rsc.today := by unfold State.vacate; (repeat' split) <;> rfl
@[simp] theorem State.vacate_inService (s : State) (b : Nat) (n : BinState) : (s.vacate b n).rsc.inService = s.rsc.inService := by unfold State.vacate; (repeat' split) <;> rfl
@[simp] theorem State.vacate_settings (s : State) (b : Nat) (n : BinState) : (s.vacate b n).rsc.settings = s.rsc.settings := by unfold State.vacate; (repeat' split) <;> rfl
@[simp] theorem State.vacate_bins (s : State) (b : Nat) (n : BinState) : (s.vacate b n).rsc.bins = s.rsc.bins := by unfold State.vacate; (repeat' split) <;> rfl
@[simp] theorem State.setBinState_pending (s : State) (b : Nat) (n : BinState) : (s.setBinState b n).pending = s.pending := by simp [State.setBinState]
@[simp] theorem State.setBinState_outputs (s : State) (b : Nat) (n : BinState) : (s.setBinState b n).outputs = s.outputs := by simp [State.setBinState]
@[simp] theorem State.setBinState_svp (s : State) (b : Nat) (n : BinState) : (s.setBinState b n).svp = s.svp := by simp [State.setBinState]
@[simp] theorem State.setBinState_clu (s : State) (b : Nat) (n : BinState) : (s.setBinState b n).clu = s.clu := by simp [State.setBinState]
@[simp] theorem State.setBinState_dsp (s : State) (b : Nat) (n : BinState) : (s.setBinState b n).dsp = s.dsp := by simp [State.setBinState]
@[simp] theorem State.setBinState_cranes (s : State) (b : Nat) (n : BinState) : (s.setBinState b n).cranes = s.cranes := by simp [State.setBinState]
@[simp] theorem State.setBinState_stu (s : State) (b : Nat) (n : BinState) : (s.setBinState b n).stu = s.stu := by simp [State.setBinState]
@[simp] theorem State.setBinState_circ (s : State) (b : Nat) (n : BinState) : (s.setBinState b n).circ = s.circ := by simp [State.setBinState]
@[simp] theorem State.setBinState_riu (s : State) (b : Nat) (n : BinState) : (s.setBinState b n).riu = s.riu := by simp [State.setBinState]
@[simp] theorem State.setBinState_fiu (s : State) (b : Nat) (n : BinState) : (s.setBinState b n).fiu = s.fiu := by simp [State.setBinState]
@[simp] theorem State.setBinState_formatOk (s : State) (b : Nat) (n : BinState) : (s.setBinState b n).rsc.formatOk = s.rsc.formatOk := by simp [State.setBinState]
@[simp] theorem State.setBinState_items (s : State) (b : Nat) (n : BinState) : (s.setBinState b n).rsc.items = s.rsc.items := by simp [State.setBinState]
@[simp] theorem State.setBinState_borrowers (s : State) (b : Nat) (n : BinState) : (s.setBinState b n).rsc.borrowers = s.rsc.borrowers := by simp [State.setBinState]
@[simp] theorem State.setBinState_loans (s : State) (b : Nat) (n : BinState) : (s.setBinState b n).rsc.loans = s.rsc.loans := by simp [State.setBinState]
@[simp] theorem State.setBinState_holds (s : State) (b : Nat) (n : BinState) : (s.setBinState b n).rsc.holds = s.rsc.holds := by simp [State.setBinState]
@[simp] theorem State.setBinState_tray (s : State) (b : Nat) (n : BinState) : (s.setBinState b n).rsc.tray = s.rsc.tray := by simp [State.setBinState]
@[simp] theorem State.setBinState_policy (s : State) (b : Nat) (n : BinState) : (s.setBinState b n).rsc.policy = s.rsc.policy := by simp [State.setBinState]
@[simp] theorem State.setBinState_calBase (s : State) (b : Nat) (n : BinState) : (s.setBinState b n).rsc.calBase = s.rsc.calBase := by simp [State.setBinState]
@[simp] theorem State.setBinState_closedDays (s : State) (b : Nat) (n : BinState) : (s.setBinState b n).rsc.closedDays = s.rsc.closedDays := by simp [State.setBinState]
@[simp] theorem State.setBinState_today (s : State) (b : Nat) (n : BinState) : (s.setBinState b n).rsc.today = s.rsc.today := by simp [State.setBinState]
@[simp] theorem State.setBinState_inService (s : State) (b : Nat) (n : BinState) : (s.setBinState b n).rsc.inService = s.rsc.inService := by simp [State.setBinState]
@[simp] theorem State.setBinState_settings (s : State) (b : Nat) (n : BinState) : (s.setBinState b n).rsc.settings = s.rsc.settings := by simp [State.setBinState]

/-! ### Reading records back -/

@[simp] theorem State.bin_setBin_self (s : State) (b : Nat) (r : Bin) : (s.setBin b r).bin b = r := by
  unfold State.bin State.setBin
  split
  · next h => simp [h]
  · simp

theorem State.bin_setBin_other (s : State) (b c : Nat) (r : Bin) (h : b ≠ c) :
    (s.setBin b r).bin c = s.bin c := by
  unfold State.bin State.setBin
  split
  · simp [Tab.find_del_other _ _ _ h]
  · simp [Tab.find_put_other _ _ _ _ h]

/-- Reading a bin record after a write. -/
theorem State.bin_setBin (s : State) (b c : Nat) (r : Bin) :
    (s.setBin b r).bin c = if b = c then r else s.bin c := by
  split
  · next h => subst h; simp
  · next h => exact s.bin_setBin_other b c r h

/-- The place of a slot in its aisle's order is below the size of an aisle. -/
theorem SlotAddr.index_lt (x : SlotAddr) : x.index < Config.slotsPerAisle := by
  obtain ⟨a, sd, l, c⟩ := x
  have := l.isLt
  have := c.isLt
  cases sd <;> simp [SlotAddr.index, Config.slotsPerAisle] <;> omega

/-- Slots of one number are one slot. -/
theorem SlotAddr.key_injective {x y : SlotAddr} (h : x.key = y.key) : x = y := by
  have hx := x.index_lt
  have hy := y.index_lt
  obtain ⟨a, sd, l, c⟩ := x
  obtain ⟨a', sd', l', c'⟩ := y
  have := c.isLt
  have := c'.isLt
  have := l.isLt
  have := l'.isLt
  cases sd <;> cases sd' <;> simp [SlotAddr.key, SlotAddr.index, Config.slotsPerAisle] at h hx hy ⊢ <;>
    (try refine ⟨Fin.ext ?_, Fin.ext ?_, Fin.ext ?_⟩) <;> omega

@[simp] theorem State.slot_setSlot_self (s : State) (x : SlotAddr) (r : Slot) : (s.setSlot x r).slot x = r := by
  unfold State.slot State.setSlot
  split
  · next h => simp [h]
  · simp

theorem State.slot_setSlot_other (s : State) (x y : SlotAddr) (r : Slot) (h : x ≠ y) :
    (s.setSlot x r).slot y = s.slot y := by
  have hk : x.key ≠ y.key := fun e => h (SlotAddr.key_injective e)
  unfold State.slot State.setSlot
  split
  · simp [Tab.find_del_other _ _ _ hk]
  · simp [Tab.find_put_other _ _ _ _ hk]

/-- Reading a slot record after a write. -/
theorem State.slot_setSlot (s : State) (x y : SlotAddr) (r : Slot) :
    (s.setSlot x r).slot y = if x = y then r else s.slot y := by
  split
  · next h => subst h; simp
  · next h => exact s.slot_setSlot_other x y r h

/-- A bin whose state names no slot leaves none. -/
theorem State.vacate_none {s : State} {b : Nat} (h : (s.bin b).state.slotFor b = none) (n : BinState) :
    s.vacate b n = s := by simp [State.vacate, h]

/-- A bin that keeps the slot it names leaves none. -/
theorem State.vacate_same {s : State} {b : Nat} {n : BinState} (h : n.slotFor b = (s.bin b).state.slotFor b) :
    s.vacate b n = s := by unfold State.vacate; split <;> simp_all

@[simp] theorem State.bin_setSlot (s : State) (x : SlotAddr) (r : Slot) (b : Nat) :
    (s.setSlot x r).bin b = s.bin b := rfl
@[simp] theorem State.slot_setBin (s : State) (b : Nat) (r : Bin) (x : SlotAddr) :
    (s.setBin b r).slot x = s.slot x := rfl
@[simp] theorem State.vacate_bin (s : State) (b c : Nat) (n : BinState) : (s.vacate b n).bin c = s.bin c := by
  unfold State.vacate; (repeat' split) <;> rfl

/-- Reading a bin record after a write of its state. -/
theorem State.bin_setBinState (s : State) (b c : Nat) (n : BinState) :
    (s.setBinState b n).bin c = if b = c then { s.bin b with state := n } else s.bin c := by
  simp [State.setBinState, State.bin_setBin]

/-- A slot state after a bin has left the slot it named. -/
theorem State.slot_vacate (s : State) (b : Nat) (n : BinState) (x : SlotAddr) :
    ((s.vacate b n).slot x).state =
      if (s.bin b).state.slotFor b = some (x, (s.slot x).state) ∧ n.slotFor b ≠ some (x, (s.slot x).state)
      then .free else (s.slot x).state := by
  unfold State.vacate
  split
  · next y q h =>
    by_cases hx : y = x
    · subst hx
      by_cases hq : (s.slot y).state = q
      · subst hq; by_cases hn : n.slotFor b = some (y, (s.slot y).state) <;> simp [h, hn, State.setSlotState]
      · have : ¬ q = (s.slot y).state := fun e => hq e.symm
        simp [h, hq, this]
    · by_cases hq : n.slotFor b ≠ some (y, q) ∧ (s.slot y).state = q
      · simp [h, hq, hx, State.setSlotState, State.slot_setSlot_other _ _ _ _ hx]
      · simp [h, hq, hx]
  · next h => simp [h]

/-- A slot state after a write of a bin's state. -/
theorem State.slot_setBinState (s : State) (b : Nat) (n : BinState) (x : SlotAddr) :
    ((s.setBinState b n).slot x).state =
      if (s.bin b).state.slotFor b = some (x, (s.slot x).state) ∧ n.slotFor b ≠ some (x, (s.slot x).state)
      then .free else (s.slot x).state := by
  simp [State.setBinState, State.slot_vacate]

theorem State.item_setItem (s : State) (n m : Nat) (r : Item) :
    (s.setItem n r).item m = if n = m then some r else s.item m := Tab.find_put _ _ _ _
theorem State.item_delItem (s : State) (n m : Nat) :
    (s.delItem n).item m = if n = m then none else s.item m := Tab.find_del _ _ _
theorem State.borrower_setBorrower (s : State) (n m : Nat) (r : Borrower) :
    (s.setBorrower n r).borrower m = if n = m then some r else s.borrower m := Tab.find_put _ _ _ _
theorem State.loan_setLoan (s : State) (n m : Nat) (r : Loan) :
    (s.setLoan n r).loan m = if n = m then some r else s.loan m := Tab.find_put _ _ _ _
theorem State.loan_delLoan (s : State) (n m : Nat) :
    (s.delLoan n).loan m = if n = m then none else s.loan m := Tab.find_del _ _ _
theorem State.hold_setHold (s : State) (n m : Nat) (r : Hold) :
    (s.setHold n r).hold m = if n = m then some r else s.hold m := Tab.find_put _ _ _ _
theorem State.hold_delHold (s : State) (n m : Nat) :
    (s.delHold n).hold m = if n = m then none else s.hold m := Tab.find_del _ _ _
theorem State.job_setJob (s : State) (n m : Nat) (r : Job) :
    (s.setJob n r).job m = if n = m then some r else s.job m := Tab.find_put _ _ _ _
theorem State.job_delJob (s : State) (n m : Nat) :
    (s.delJob n).job m = if n = m then none else s.job m := Tab.find_del _ _ _
theorem State.batch_setBatch (s : State) (n m : Nat) (r : Batch) :
    (s.setBatch n r).batch m = if n = m then some r else s.batch m := Tab.find_put _ _ _ _

/-- Reading an aisle queue after a write. -/
theorem State.queue_setQueue (s : State) (a b : Aisle) (q : Queue) :
    (s.setQueue a q).queue b = if a = b then q else s.queue b := by
  simp only [State.queue, State.setQueue, Fin.getElem_fin, Vector.getElem_set, Fin.ext_iff]
/-- Reading a crane context after a write. -/
theorem State.crane_setCrane (s : State) (a b : Aisle) (c : Crane) :
    (s.setCrane a c).crane b = if a = b then c else s.crane b := by
  simp only [State.crane, State.setCrane, Fin.getElem_fin, Vector.getElem_set, Fin.ext_iff]
/-- Reading a zone record after a write. -/
theorem State.zone_setZone (s : State) (z w : ZoneNo) (r : Zone) :
    (s.setZone z r).zone w = if z = w then r else s.zone w := by
  simp only [State.zone, State.setZone, Fin.getElem_fin, Vector.getElem_set, Fin.ext_iff]
/-- Reading a station record after a write. -/
theorem State.station_setStation (s : State) (t u : StationNo) (r : Station) :
    (s.setStation t r).station u =
      if t = u then r.withLamp s.svp.tick s.rsc.settings.station.lampOn else s.station u := by
  simp only [State.station, State.setStation, Fin.getElem_fin, Vector.getElem_set, Fin.ext_iff]

@[simp] theorem State.queue_setQueue_self (s : State) (a : Aisle) (q : Queue) :
    (s.setQueue a q).queue a = q := by simp [State.queue_setQueue]
@[simp] theorem State.crane_setCrane_self (s : State) (a : Aisle) (c : Crane) :
    (s.setCrane a c).crane a = c := by simp [State.crane_setCrane]
@[simp] theorem State.zone_setZone_self (s : State) (z : ZoneNo) (r : Zone) :
    (s.setZone z r).zone z = r := by simp [State.zone_setZone]
@[simp] theorem State.item_setItem_self (s : State) (n : Nat) (r : Item) :
    (s.setItem n r).item n = some r := by simp [State.item_setItem]
@[simp] theorem State.job_setJob_self (s : State) (n : Nat) (r : Job) :
    (s.setJob n r).job n = some r := by simp [State.job_setJob]

/-! ### The work list -/

@[simp] theorem Work.on_st (w : Work) (f : State → State) : (w.on f).st = f w.st := by
  cases w; rfl
@[simp] theorem Work.on_todo (w : Work) (f : State → State) : (w.on f).todo = w.todo := by
  cases w; rfl
@[simp] theorem Work.note_st (w : Work) (f : Todo → Todo) : (w.note f).st = w.st := by
  cases w; rfl
@[simp] theorem Work.note_todo (w : Work) (f : Todo → Todo) : (w.note f).todo = f w.todo := by
  cases w; rfl
@[simp] theorem State.begin_st (s : State) : s.begin.st = s := by cases s; rfl
@[simp] theorem State.begin_todo (s : State) : s.begin.todo = Todo.none := rfl

/-- An action that leaves nothing to be done ends as it is. -/
theorem Work.settle_of_done (w : Work) (h : w.todo = Todo.none) : w.settle = w.st := by
  simp [Work.settle, Work.settleWith, h]

@[simp] theorem State.begin_settle (s : State) : s.begin.settle = s := Work.settle_of_done _ rfl

/-! ### Pages delivered (R154) -/

@[simp] theorem State.newStay_pending (s : State) (b : Nat) : (s.newStay b).pending = s.pending := rfl
@[simp] theorem State.newStay_outputs (s : State) (b : Nat) : (s.newStay b).outputs = s.outputs := rfl
@[simp] theorem State.newStay_svp (s : State) (b : Nat) : (s.newStay b).svp = s.svp := rfl
@[simp] theorem State.newStay_rsc (s : State) (b : Nat) : (s.newStay b).rsc = s.rsc := rfl
@[simp] theorem State.newStay_clu (s : State) (b : Nat) : (s.newStay b).clu = s.clu := rfl
@[simp] theorem State.newStay_dsp (s : State) (b : Nat) : (s.newStay b).dsp = s.dsp := rfl
@[simp] theorem State.newStay_cranes (s : State) (b : Nat) : (s.newStay b).cranes = s.cranes := rfl
@[simp] theorem State.newStay_stu (s : State) (b : Nat) : (s.newStay b).stu = s.stu := rfl
@[simp] theorem State.newStay_riu (s : State) (b : Nat) : (s.newStay b).riu = s.riu := rfl
@[simp] theorem State.newStay_fiu (s : State) (b : Nat) : (s.newStay b).fiu = s.fiu := rfl
@[simp] theorem State.newStay_pages (s : State) (b : Nat) : (s.newStay b).circ.pages = s.circ.pages := rfl
@[simp] theorem State.markDelivered_pending (s : State) (h b : Nat) : (s.markDelivered h b).pending = s.pending := rfl
@[simp] theorem State.markDelivered_outputs (s : State) (h b : Nat) : (s.markDelivered h b).outputs = s.outputs := rfl
@[simp] theorem State.markDelivered_svp (s : State) (h b : Nat) : (s.markDelivered h b).svp = s.svp := rfl
@[simp] theorem State.markDelivered_rsc (s : State) (h b : Nat) : (s.markDelivered h b).rsc = s.rsc := rfl
@[simp] theorem State.markDelivered_clu (s : State) (h b : Nat) : (s.markDelivered h b).clu = s.clu := rfl
@[simp] theorem State.markDelivered_dsp (s : State) (h b : Nat) : (s.markDelivered h b).dsp = s.dsp := rfl
@[simp] theorem State.markDelivered_cranes (s : State) (h b : Nat) : (s.markDelivered h b).cranes = s.cranes := rfl
@[simp] theorem State.markDelivered_stu (s : State) (h b : Nat) : (s.markDelivered h b).stu = s.stu := rfl
@[simp] theorem State.markDelivered_riu (s : State) (h b : Nat) : (s.markDelivered h b).riu = s.riu := rfl
@[simp] theorem State.markDelivered_fiu (s : State) (h b : Nat) : (s.markDelivered h b).fiu = s.fiu := rfl
@[simp] theorem State.markDelivered_pages (s : State) (h b : Nat) : (s.markDelivered h b).circ.pages = s.circ.pages := rfl
@[simp] theorem State.forgetDelivered_pending (s : State) (h : Nat) : (s.forgetDelivered h).pending = s.pending := rfl
@[simp] theorem State.forgetDelivered_outputs (s : State) (h : Nat) : (s.forgetDelivered h).outputs = s.outputs := rfl
@[simp] theorem State.forgetDelivered_svp (s : State) (h : Nat) : (s.forgetDelivered h).svp = s.svp := rfl
@[simp] theorem State.forgetDelivered_rsc (s : State) (h : Nat) : (s.forgetDelivered h).rsc = s.rsc := rfl
@[simp] theorem State.forgetDelivered_clu (s : State) (h : Nat) : (s.forgetDelivered h).clu = s.clu := rfl
@[simp] theorem State.forgetDelivered_dsp (s : State) (h : Nat) : (s.forgetDelivered h).dsp = s.dsp := rfl
@[simp] theorem State.forgetDelivered_cranes (s : State) (h : Nat) : (s.forgetDelivered h).cranes = s.cranes := rfl
@[simp] theorem State.forgetDelivered_stu (s : State) (h : Nat) : (s.forgetDelivered h).stu = s.stu := rfl
@[simp] theorem State.forgetDelivered_riu (s : State) (h : Nat) : (s.forgetDelivered h).riu = s.riu := rfl
@[simp] theorem State.forgetDelivered_fiu (s : State) (h : Nat) : (s.forgetDelivered h).fiu = s.fiu := rfl
@[simp] theorem State.forgetDelivered_pages (s : State) (h : Nat) : (s.forgetDelivered h).circ.pages = s.circ.pages := rfl
@[simp] theorem State.unplacePages_pending (s : State) (b : Nat) : (s.unplacePages b).pending = s.pending := rfl
@[simp] theorem State.unplacePages_outputs (s : State) (b : Nat) : (s.unplacePages b).outputs = s.outputs := rfl
@[simp] theorem State.unplacePages_svp (s : State) (b : Nat) : (s.unplacePages b).svp = s.svp := rfl
@[simp] theorem State.unplacePages_rsc (s : State) (b : Nat) : (s.unplacePages b).rsc = s.rsc := rfl
@[simp] theorem State.unplacePages_clu (s : State) (b : Nat) : (s.unplacePages b).clu = s.clu := rfl
@[simp] theorem State.unplacePages_dsp (s : State) (b : Nat) : (s.unplacePages b).dsp = s.dsp := rfl
@[simp] theorem State.unplacePages_cranes (s : State) (b : Nat) : (s.unplacePages b).cranes = s.cranes := rfl
@[simp] theorem State.unplacePages_stu (s : State) (b : Nat) : (s.unplacePages b).stu = s.stu := rfl
@[simp] theorem State.unplacePages_riu (s : State) (b : Nat) : (s.unplacePages b).riu = s.riu := rfl
@[simp] theorem State.unplacePages_fiu (s : State) (b : Nat) : (s.unplacePages b).fiu = s.fiu := rfl
@[simp] theorem State.unplacePages_delivered (s : State) (b : Nat) : (s.unplacePages b).circ.delivered = s.circ.delivered := rfl

/-- After a new stay has begun, the pages delivered are those of other bins. -/
theorem State.mem_newStay (s : State) (b : Nat) (e : Nat × Nat) :
    e ∈ (s.newStay b).circ.delivered ↔ e ∈ s.circ.delivered ∧ e.2 ≠ b := by simp [State.newStay]
/-- After a hold has left the pool, the pages delivered are those of other holds. -/
theorem State.mem_forgetDelivered (s : State) (h : Nat) (e : Nat × Nat) :
    e ∈ (s.forgetDelivered h).circ.delivered ↔ e ∈ s.circ.delivered ∧ e.1 ≠ h := by simp [State.forgetDelivered]
/-- A page delivered is added to those delivered before. -/
theorem State.mem_markDelivered (s : State) (h b : Nat) (e : Nat × Nat) :
    e ∈ (s.markDelivered h b).circ.delivered ↔ e = (h, b) ∨ e ∈ s.circ.delivered := by
  by_cases he : e = (h, b)
  · simp [State.markDelivered, he]
  · simp [State.markDelivered, he, List.mem_erase_of_ne he]

/-! ### A queue that stops (R63, R64) -/

/-- A queue that is stopped is STOPPED with its reason. -/
@[simp] theorem State.stopQueue_queue (s : State) (a : Aisle) (o : Option StopReason) :
    (s.stopQueue a o).queue a = { s.queue a with state := .stopped, reason := o } := by
  have e : ∀ (t : State) (k x y z), (t.post k x y z).queue a = t.queue a := by
    intro t k x y z; simp [State.queue]
  unfold State.stopQueue
  dsimp only
  split <;> simp [e]

end Sys2Proof.Machine
end

