-- ==== Sys2Proof/Laws/Kept.lean ====
section
/-! SUPPORT. What every operation keeps. A property of states that the elementary writes of the records of
movement keep (`ClosedIn`, and `Closed` where bins arrive at ports) is kept by every operation built from them: selections, grants, releases, arrivals,
the course of crane orders and the end of an action. Each operation has one lemma, for every such property at
once; a claim about what movement leaves alone is an application of them. -/

namespace Sys2Proof.Machine

/-- A property holds of a state. -/
def Kept (P : State → Prop) (s : State) : Prop := P s

/-- The elementary writes of the records of movement keep a property. A bin's state and the slot it names are
written together (R2, R3), an owner names a job that names the bin (R41), no bin is taken out of use, the numbers of jobs and
batches stay in their tables (R56, R118), an aisle's queue and a lane do not grow beyond their limits (R58, R108), and
a port inbound buffer does not grow (R81). -/
class ClosedIn (P : State → Prop) : Prop where
  slot : ∀ {s : State} (x r), r.state = (s.slot x).state → P s → P (s.setSlot x r)
  bin : ∀ {s : State} (b r), r.state = (s.bin b).state → r.owner = (s.bin b).owner → r.fills = (s.bin b).fills →
    r.count = (s.bin b).count → P s → P (s.setBin b r)
  binState : ∀ {s : State} (b n), n ≠ .unused → (n.slotFor b = none ∨ n.slotFor b = (s.bin b).state.slotFor b) → P s →
    P (s.setBinState b n)
  store : ∀ {s : State} (b x), P s → P (s.storeBin b x)
  reserve : ∀ {s : State} (b x), P s → P (s.reserve b x)
  owner : ∀ {s : State} (b o), (∀ j, o = .job j → ∃ r, s.job j = some r ∧ r.bin = b) → P s → P (s.setOwner b o)
  newRecord : ∀ {s : State} (j r), s.job j = none → j < 128 → P s → P (s.takeRecord j r)
  modJob : ∀ {s : State} (j f), (∀ q, (f q).bin = q.bin) → P s → P (s.modJob j f)
  dropJob : ∀ {s : State} (j), P s → P (s.dropJob j)
  queue : ∀ {s : State} (a q), q.used ≤ (s.queue a).used ∨ q.used ≤ 32 → P s → P (s.setQueue a q)
  crane : ∀ {s : State} (a c), c.buffer.length ≤ (s.crane a).buffer.length → P s → P (s.setCrane a c)
  station : ∀ {s : State} (t r), ((s.station t).isOpen = true → r.isOpen = true) →
    r.lane.length ≤ (s.station t).lane.length ∨ r.lane.length ≤ 4 → P s → P (s.setStation t r)
  batch : ∀ {s : State} (n r), n < 8 ∨ s.batch n ≠ none → P s → P (s.setBatch n r)
  post : ∀ {s : State} (k x y z), P s → P (s.post k x y z)
  send : ∀ {s : State} (a o), (o.moves = true → s.canOrder a = true) → P s → P (s.send a o)
  drainItem : ∀ {s : State} (b p n), P s → P (s.drainItem b p n)
  placeClaim : ∀ {s : State} (b c t p), P s → P (s.placeClaim b c t p).1
  removeClaim : ∀ {s : State} (c), P s → P (s.removeClaim c)
  firePut : ∀ {s : State} (b j), (∃ r, s.job j = some r ∧ r.bin = b) → P s →
    P { s with clu.fireJobs := Tab.put s.clu.fireJobs b j }
  fireDrop : ∀ {s : State} (p : Nat × Nat → Bool), P s → P { s with clu.fireJobs := s.clu.fireJobs.filter p }
  pages : ∀ {s : State} (l), P s → P { s with circ.pages := l }
  delivered : ∀ {s : State} (l), P s → P { s with circ.delivered := l }
  fills : ∀ {s : State} (l), P s → P { s with riu.fills := l }
  noQualifier : ∀ {s : State} (b), P s → P { s with riu.noQualifier := b }
  audit : ∀ {s : State} (u), P s → P { s with dsp.audit := u }
  auditEnd : ∀ {s : State}, P s → P { s with dsp.audit := none, svp.longOp := none }

/-- The same where a bin may also be taken into a port inbound buffer that has a place (R100, R101). -/
class Closed (P : State → Prop) : Prop extends ClosedIn P where
  port : ∀ {s : State} (a b), (s.crane a).buffer.length < 2 → P s → P (s.bufferJoin a b)

variable {P : State → Prop} [ClosedIn P] {s : State} {w : Work}

/-! ### Elementary writes -/

omit [ClosedIn P] in
@[simp] theorem kept_ite {c : Prop} [Decidable c] {t u : State} (ht : Kept P t) (hu : Kept P u) :
    Kept P (if c then t else u) := by split <;> assumption

omit [ClosedIn P] in
theorem kept_ite' {c : Prop} [Decidable c] {t u : State} (ht : c → Kept P t) (hu : ¬c → Kept P u) :
    Kept P (if c then t else u) := by split <;> simp_all

theorem kept_setSlot (x r) (hr : r.state = (s.slot x).state) (h : Kept P s) : Kept P (s.setSlot x r) :=
  ClosedIn.slot (P := P) x r hr h
/-- A bin record keeps its state, its owner and its fills when another part of it is written. -/
theorem kept_modBin (b f) (h1 : (f (s.bin b)).state = (s.bin b).state) (h2 : (f (s.bin b)).owner = (s.bin b).owner)
    (h3 : (f (s.bin b)).fills = (s.bin b).fills) (h4 : (f (s.bin b)).count = (s.bin b).count) (h : Kept P s) :
    Kept P (s.modBin b f) :=
  ClosedIn.bin (P := P) b _ h1 h2 h3 h4 h
@[simp] theorem kept_auditFlag (b c) (h : Kept P s) : Kept P (s.modBin b (fun r => { r with audit := c })) :=
  kept_modBin _ _ rfl rfl rfl rfl h
theorem kept_setBinState (b) (n : BinState) (hu : n ≠ .unused)
    (hn : n.slotFor b = none ∨ n.slotFor b = (s.bin b).state.slotFor b) (h : Kept P s) :
    Kept P (s.setBinState b n) := ClosedIn.binState (P := P) b n hu hn h
/-- The states of a bin that names no slot. -/
@[simp] theorem kept_onCrane (b) (h : Kept P s) : Kept P (s.setBinState b (.onCrane none)) :=
  kept_setBinState _ _ (by simp) (.inl rfl) h
@[simp] theorem kept_enRoute (b t) (h : Kept P s) : Kept P (s.setBinState b (.enRoute t)) :=
  kept_setBinState _ _ (by simp) (.inl rfl) h
@[simp] theorem kept_presented (b t p) (h : Kept P s) : Kept P (s.setBinState b (.presented t p)) :=
  kept_setBinState _ _ (by simp) (.inl rfl) h
@[simp] theorem kept_uncertain (b) (h : Kept P s) : Kept P (s.setBinState b .uncertain) :=
  kept_setBinState _ _ (by simp) (.inl rfl) h
@[simp] theorem kept_returning (b a) (h : Kept P s) : Kept P (s.setBinState b (.returning a none)) :=
  kept_setBinState _ _ (by simp) (.inl rfl) h
@[simp] theorem kept_storeBin (b x) (h : Kept P s) : Kept P (s.storeBin b x) := ClosedIn.store (P := P) b x h
@[simp] theorem kept_reserve (b x) (h : Kept P s) : Kept P (s.reserve b x) := ClosedIn.reserve (P := P) b x h
theorem kept_setOwner (b o) (ho : ∀ j, o = .job j → ∃ r, s.job j = some r ∧ r.bin = b) (h : Kept P s) :
    Kept P (s.setOwner b o) := ClosedIn.owner (P := P) b o ho h
/-- The owners that name no job. -/
@[simp] theorem kept_disown (b) (h : Kept P s) : Kept P (s.setOwner b .none) := kept_setOwner _ _ (by simp) h
@[simp] theorem kept_ownFire (b) (h : Kept P s) : Kept P (s.setOwner b .fire) := kept_setOwner _ _ (by simp) h
@[simp] theorem kept_ownStation (b t) (h : Kept P s) : Kept P (s.setOwner b (.station t)) :=
  kept_setOwner _ _ (by simp) h
theorem kept_takeRecord (j r) (hj : s.job j = none ∧ j < 128) (h : Kept P s) : Kept P (s.takeRecord j r) :=
  ClosedIn.newRecord (P := P) j r hj.1 hj.2 h
theorem kept_modJob (j) (f : Job → Job) (hf : ∀ q, (f q).bin = q.bin) (h : Kept P s) : Kept P (s.modJob j f) :=
  ClosedIn.modJob (P := P) j f hf h
@[simp] theorem kept_activeJob (j c) (h : Kept P s) : Kept P (s.modJob j (fun q => { q with active := c })) :=
  kept_modJob _ _ (fun _ => rfl) h
@[simp] theorem kept_destJob (j d) (h : Kept P s) : Kept P (s.modJob j (fun q => { q with dest := d })) :=
  kept_modJob _ _ (fun _ => rfl) h
@[simp] theorem kept_dropJob (j) (h : Kept P s) : Kept P (s.dropJob j) := ClosedIn.dropJob (P := P) j h
@[simp] theorem kept_setQueue (a) (q : Queue) (hq : q.used ≤ (s.queue a).used ∨ q.used ≤ 32) (h : Kept P s) :
    Kept P (s.setQueue a q) := ClosedIn.queue (P := P) a q hq h
@[simp] theorem kept_setCrane (a) (c : Crane)
    (hc : c.buffer.length ≤ (s.crane a).buffer.length) (h : Kept P s) :
    Kept P (s.setCrane a c) := ClosedIn.crane (P := P) a c hc h
/-- A queue keeps its jobs and its waiting PUTBACK when another part of it is written. -/
theorem kept_setQueue_same (a) (q : Queue) (hj : q.jobs = (s.queue a).jobs) (hp : q.putback = (s.queue a).putback)
    (h : Kept P s) : Kept P (s.setQueue a q) := kept_setQueue a q (.inl (by simp [Queue.used, hj, hp])) h
/-- A crane keeps its buffer when another part of its context is written. -/
theorem kept_setCrane_same (a) (c : Crane) (hc : c.buffer = (s.crane a).buffer) (h : Kept P s) :
    Kept P (s.setCrane a c) := kept_setCrane a c (by rw [hc]) h
theorem kept_setStation (t r) (hr : (s.station t).isOpen = true → r.isOpen = true)
    (hl : r.lane.length ≤ (s.station t).lane.length ∨ r.lane.length ≤ 4) (h : Kept P s) :
    Kept P (s.setStation t r) := ClosedIn.station (P := P) t r hr hl h
theorem kept_setBatch (n r) (hn : n < 8 ∨ s.batch n ≠ none) (h : Kept P s) : Kept P (s.setBatch n r) :=
  ClosedIn.batch (P := P) n r hn h
@[simp] theorem kept_post (k x y z) (h : Kept P s) : Kept P (s.post k x y z) := ClosedIn.post (P := P) k x y z h
theorem kept_send (a o) (ho : o.moves = true → s.canOrder a = true) (h : Kept P s) : Kept P (s.send a o) :=
  ClosedIn.send (P := P) a o ho h
/-- Orders that R76 does not withhold. -/
@[simp] theorem kept_send_park (a) (h : Kept P s) : Kept P (s.send a .park) := kept_send a _ (by simp [LinkOrder.moves]) h
@[simp] theorem kept_send_rest (a) (h : Kept P s) : Kept P (s.send a .rest) := kept_send a _ (by simp [LinkOrder.moves]) h
@[simp] theorem kept_send_clear (a) (h : Kept P s) : Kept P (s.send a .clear) :=
  kept_send a _ (by simp [LinkOrder.moves]) h
@[simp] theorem kept_send_abort (a n) (h : Kept P s) : Kept P (s.send a (.abort n)) :=
  kept_send a _ (by simp [LinkOrder.moves]) h
@[simp] theorem kept_drainItem (b p n) (h : Kept P s) : Kept P (s.drainItem b p n) :=
  ClosedIn.drainItem (P := P) b p n h
@[simp] theorem kept_placeClaim (b c t p) (h : Kept P s) : Kept P (s.placeClaim b c t p).1 :=
  ClosedIn.placeClaim (P := P) b c t p h
@[simp] theorem kept_removeClaim (c) (h : Kept P s) : Kept P (s.removeClaim c) := ClosedIn.removeClaim (P := P) c h

/-- A station keeps its state when another part of its record is written. -/
theorem kept_setStation_same (t) (r : Station) (hr : r.state = (s.station t).state)
    (hl : r.lane.length ≤ (s.station t).lane.length ∨ r.lane.length ≤ 4) (h : Kept P s) :
    Kept P (s.setStation t r) :=
  kept_setStation t r (by simp [Station.isOpen, hr]) hl h

@[simp] theorem kept_setPosition (t p r) (h : Kept P s) : Kept P (s.setPosition t p r) :=
  kept_setStation_same _ _ rfl (.inl (by rfl)) h
theorem kept_laneJoin (t b) (hl : (s.station t).lane.length < 4) (h : Kept P s) : Kept P (s.laneJoin t b) :=
  kept_setStation_same _ _ rfl (.inr (by simp; omega)) h

omit [ClosedIn P] in
theorem kept_each {α : Type} {f : State → α → State} (hf : ∀ s x, Kept P s → Kept P (f s x)) (l : List α)
    (h : Kept P s) : Kept P (s.each l f) := State.each_keeps (Kept P) f hf l s h

omit [ClosedIn P] in
theorem kept_work_each {α : Type} {f : Work → α → Work} (hf : ∀ w x, Kept P w.st → Kept P (f w x).st)
    (l : List α) (h : Kept P w.st) : Kept P (w.each l f).st :=
  Work.each_keeps (fun w => Kept P w.st) f hf l w h

/-! ### Ops -/

@[simp] theorem kept_setHeld (x j) (h : Kept P s) : Kept P (s.setHeld x j) := kept_setSlot _ _ rfl h

/-! ### Search -/

@[simp] theorem kept_releaseReservation (b) (h : Kept P s) : Kept P (s.releaseReservation b) := by
  unfold State.releaseReservation
  split
  · refine kept_setBinState _ _ ?_ (.inl ?_) h <;>
    cases hs : (s.bin b).state <;> simp_all [BinState.reserved?, BinState.withReserved, BinState.slotFor]
  · exact h
@[simp] theorem kept_releaseHold (j d) (h : Kept P s) : Kept P (s.releaseHold j d) := by
  unfold State.releaseHold; (repeat' split) <;> simp (maxDischargeDepth := 9) [h]

/-! ### Selection -/

@[simp] theorem kept_stopQueue (a o) (h : Kept P s) : Kept P (s.stopQueue a o) := by
  have h1 : Kept P (s.setQueue a { s.queue a with state := .stopped, reason := o }) :=
    kept_setQueue_same _ _ rfl rfl h
  exact kept_ite (kept_post _ _ _ _ h1) h1
@[simp] theorem kept_setCraneState (a st) (h : Kept P s) : Kept P (s.setCraneState a st) := by
  have h1 := kept_setCrane_same a { s.crane a with
    state := st, restTimer := if st = .idle then (s.crane a).restTimer else none } rfl h
  exact kept_ite (kept_stopQueue _ _ h1) h1
/-- The conditions of R76 depend on the interlock only. -/
theorem State.canOrder_congr {s t : State} (h : s.fiu = t.fiu) (a : Aisle) : s.canOrder a = t.canOrder a := by
  cases s; cases t; cases h; rfl

@[simp] theorem State.stopQueue_fiu (s : State) (a : Aisle) (o : Option StopReason) : (s.stopQueue a o).fiu = s.fiu := by
  unfold State.stopQueue
  dsimp only
  rw [apply_ite State.fiu]
  simp

@[simp] theorem State.setCraneState_fiu (s : State) (a : Aisle) (st : CraneState) :
    (s.setCraneState a st).fiu = s.fiu := by
  unfold State.setCraneState
  dsimp only
  rw [apply_ite State.fiu]
  simp

@[simp] theorem State.reserve_fiu (s : State) (b : Nat) (x : SlotAddr) : (s.reserve b x).fiu = s.fiu := by
  unfold State.reserve; dsimp only; split <;> simp [State.setSlotState]

@[simp] theorem State.modJob_fiu (s : State) (j : Nat) (f : Job → Job) : (s.modJob j f).fiu = s.fiu := by
  unfold State.modJob; split <;> simp

@[simp] theorem State.reservePutbacks_fiu (s : State) (a : Aisle) : (s.reservePutbacks a).fiu = s.fiu := by
  refine State.each_keeps (fun t => t.fiu = s.fiu) _ ?_ _ _ rfl
  intro t j h
  (repeat' split) <;> simp (maxDischargeDepth := 9) [h]

@[simp] theorem State.activate_fiu (s : State) (j : Nat) (r : Job) : (s.activate j r).fiu = s.fiu := by
  unfold State.activate; dsimp only; split <;> simp (maxDischargeDepth := 9) [State.laneJoin]

theorem kept_sendJobOrder (a j k b x y l) (ho : s.canOrder a = true) (h : Kept P s) :
    Kept P (s.sendJobOrder a j k b x y l) := by
  unfold State.sendJobOrder; dsimp only
  refine kept_send _ _ (fun _ => ?_) (by simp (maxDischargeDepth := 9) [h])
  rw [State.canOrder_congr (t := s) (by simp), ho]
theorem kept_sendOrderFor (a j r) (ho : s.canOrder a = true) (h : Kept P s) :
    Kept P (s.sendOrderFor a j r) := kept_sendJobOrder _ _ _ _ _ _ _ ho h
theorem kept_sendResume (a j r) (ho : s.canOrder a = true) (h : Kept P s) : Kept P (s.sendResume a j r) := by
  unfold State.sendResume
  refine kept_sendJobOrder _ _ _ _ _ _ _ ?_ (by simp (maxDischargeDepth := 9) [h])
  rw [State.canOrder_congr (t := s) (by simp), ho]
theorem kept_sendWake (a j) (ho : s.canOrder a = true) (h : Kept P s) : Kept P (s.sendWake a j) := by
  unfold State.sendWake; dsimp only
  refine kept_send _ _ (fun _ => ?_) (by simp (maxDischargeDepth := 9) [h])
  rw [State.canOrder_congr (t := s) (by simp), ho]
@[simp] theorem kept_sendPark (a) (h : Kept P s) : Kept P (s.sendPark a) := by simp (maxDischargeDepth := 9) [State.sendPark, h]
@[simp] theorem kept_reservePutbacks (a) (h : Kept P s) : Kept P (s.reservePutbacks a) := by
  refine kept_each ?_ _ h
  intro s j h
  (repeat' split) <;> simp (maxDischargeDepth := 9) [h]
theorem kept_activate (j r) (hl : ∀ t, r.kind = .fetch → r.dest = .station t → (s.station t).lane.length < 4)
    (h : Kept P s) : Kept P (s.activate j r) := by
  unfold State.activate; dsimp only
  have h1 : Kept P (s.modJob j (fun q => { q with active := true })) := by simp [h]
  split
  · next t hk hd =>
    refine kept_laneJoin _ _ ?_ h1
    have := hl t hk hd
    unfold State.modJob
    split <;> simpa [State.station] using this
  · exact h1
/-- The job that a selection takes is in use, not ACTIVE, and eligible (R67, R68, R75). -/
theorem State.bestJob_eligible {s : State} {a : Aisle} {j : Nat} {r : Job} (e : s.bestJob a = some (j, r)) :
    s.job j = some r ∧ r.active = false ∧ s.kindEligible j r false = true := by
  have key : ∀ (f : Option (Nat × Job × Int) → Nat → Option (Nat × Job × Int)) (l : List Nat),
      (∀ best i, f best i = best ∨ ∃ q m, f best i = some (i, q, m) ∧ s.job i = some q ∧ q.active = false ∧
        s.kindEligible i q false = true) →
      ∀ best, (∀ i q m, best = some (i, q, m) → s.job i = some q ∧ q.active = false ∧
        s.kindEligible i q false = true) →
      ∀ i q m, l.foldl f best = some (i, q, m) → s.job i = some q ∧ q.active = false ∧
        s.kindEligible i q false = true := by
    intro f l hf
    induction l with
    | nil => intro best hb; exact hb
    | cons x l ih =>
      intro best hb
      refine ih (f best x) ?_
      rcases hf best x with h | ⟨q, m, h, hq⟩
      · rw [h]; exact hb
      · rw [h]; rintro i q' m' ⟨⟩; exact hq
  unfold State.bestJob at e
  obtain ⟨⟨i, q, m⟩, e1, e2⟩ := Option.map_eq_some_iff.1 e
  cases e2
  refine key _ _ ?_ none (by simp) i q m e1
  intro best i
  cases hi : s.job i with
  | none => exact .inl rfl
  | some q =>
    dsimp only
    by_cases hc : (!q.active && s.kindEligible i q false) = true
    · have hc' : q.active = false ∧ s.kindEligible i q false = true := by simpa using hc
      rw [if_pos hc]
      cases best with
      | none => exact .inr ⟨q, _, rfl, rfl, hc'⟩
      | some b =>
        obtain ⟨k, p, n⟩ := b
        dsimp only
        split
        · exact .inr ⟨q, _, rfl, rfl, hc'⟩
        · exact .inl rfl
    · rw [if_neg hc]; exact .inl rfl
/-- An eligible FETCH finds room in its lane (R68). -/
theorem State.lane_of_eligible {s : State} {j : Nat} {r : Job} (e : s.kindEligible j r false = true) :
    ∀ t, r.kind = .fetch → r.dest = .station t → (s.station t).lane.length < 4 := by
  intro t hk hd
  simp [State.kindEligible, hk, hd, Config.lanePlaces] at e
  exact e.1.2
@[simp] theorem kept_selectAisle (a) (h : Kept P s) : Kept P (s.selectAisle a) := by
  unfold State.selectAisle; dsimp only
  split
  · exact h
  · split
    · split
      · split
        · next hc => exact kept_sendResume _ _ _ (by simp at hc; exact hc.2) h
        · exact h
      · exact h
    · split
      · next hc =>
        have hc' : s.canOrder a = true := by
          simp only [State.commonConditions, Bool.and_eq_true] at hc; exact hc.2
        have h1 : Kept P (s.reservePutbacks a) := kept_reservePutbacks a h
        split
        · exact h1
        · next j r e =>
          have h2 := kept_activate j r (State.lane_of_eligible (State.bestJob_eligible e).2.2) h1
          split
          · exact kept_sendOrderFor _ _ _ (by rw [State.canOrder_congr (t := s) (by simp), hc']) h2
          · exact kept_sendWake _ _ (by rw [State.canOrder_congr (t := s) (by simp), hc']) h2
      · exact h
@[simp] theorem kept_selectAll (h : Kept P s) : Kept P s.selectAll :=
  kept_each (fun _ _ => kept_selectAisle _) _ h
@[simp] theorem kept_selectFor (t) (h : Kept P s) : Kept P (s.selectFor t) :=
  kept_each (fun _ _ => kept_selectAisle _) _ h
theorem kept_enqueue (a j) (hq : (s.queue a).used < 32) (h : Kept P s) : Kept P (s.enqueue a j) :=
  kept_setQueue _ _ (.inr (by simp only [Queue.used, List.length_append, List.length_singleton] at hq ⊢; omega)) h

/-- The record that a new job takes is free and one of the table's (R56, R58). -/
theorem State.job_of_freeJob {s : State} {j : Nat} (e : s.freeJob = some j) : s.job j = none ∧ j < 128 := by
  refine ⟨by simpa using List.find?_some e, ?_⟩
  have hm := List.mem_of_find?_eq_some e
  obtain ⟨i, _, rfl⟩ := List.mem_map.1 hm
  exact Nat.mod_lt _ (by decide)

/-- A job owns its bin from its creation. -/
theorem kept_ownedRecord (j) (r : Job) (hj : s.job j = none ∧ j < 128) (h : Kept P s) :
    Kept P ((s.takeRecord j r).setOwner r.bin (.job j)) :=
  kept_setOwner _ _ (by rintro i ⟨⟩; exact ⟨r, by simp [State.takeRecord, State.job, State.setJob], rfl⟩)
    (kept_takeRecord j r hj h)

theorem kept_newJob {a r t j} (h : Kept P s) (e : s.newJob a r = some (t, j)) : Kept P t := by
  unfold State.newJob at e
  split at e
  · next i hi =>
    split at e
    · next hq =>
      cases e
      exact kept_enqueue _ _ (of_decide_eq_true hq)
        (kept_ownedRecord _ _ (State.job_of_freeJob hi) h)
    · cases e
  · cases e

/-! ### Claims -/

theorem kept_createJob {a r t j} (h : Kept P s) (e : s.createJob a r = some (t, j)) : Kept P t := by
  unfold State.createJob at e
  cases hn : s.newJob a r with
  | none => simp (maxDischargeDepth := 9) [hn] at e
  | some p =>
    simp only [hn, Option.map_some, Option.some.injEq, Prod.mk.injEq] at e
    obtain ⟨rfl, _⟩ := e
    simp (maxDischargeDepth := 9) [kept_newJob h hn]

@[simp] theorem kept_placeFetch (b c t p) (h : Kept P s) : Kept P (s.placeFetch b c t p).1 := by
  unfold State.placeFetch
  split
  · exact h
  · exact h
  · split
    · split
      · next e => exact kept_createJob h e
      · exact h
    · simp (maxDischargeDepth := 9) [h]
  · simp (maxDischargeDepth := 9) [h]

/-- The same, for the outcome taken apart. -/
theorem kept_placeFetch_eq {b c t p u o} (h : Kept P s) (e : s.placeFetch b c t p = (u, o)) : Kept P u := by
  have := kept_placeFetch (P := P) b c t p h
  rwa [e] at this

@[simp] theorem kept_leaveLane (t b) (h : Kept P w.st) : Kept P (w.leaveLane t b).st := by
  unfold Work.leaveLane; dsimp only
  split
  · exact kept_setStation_same _ _ rfl (.inl (List.length_filter_le _ _)) h
  · exact h
@[simp] theorem kept_leaveLanes (b) (h : Kept P w.st) : Kept P (w.leaveLanes b).st :=
  kept_work_each (fun _ _ => kept_leaveLane _ _) _ h
@[simp] theorem kept_leaveQueue (a j) (h : Kept P w.st) : Kept P (w.leaveQueue a j).st := by
  unfold Work.leaveQueue; dsimp only; split
  · refine kept_setQueue _ _ (.inl ?_) h
    have := List.length_filter_le (· != j) (w.st.queue a).jobs
    simp only [Queue.used]
    by_cases hp : (w.st.queue a).putback = some j <;> simp [hp] <;> omega
  · exact h
@[simp] theorem kept_craneForget (a j) (h : Kept P s) : Kept P (s.craneForget a j) := kept_setCrane_same _ _ rfl h
@[simp] theorem kept_endJob (j r) (h : Kept P w.st) : Kept P (w.endJob j r).st := by
  unfold Work.endJob; dsimp only
  have h1 : Kept P (match r.aisle with
    | some a => ((w.leaveQueue a j).on (·.craneForget a j)).note (fun o => { o with ended := o.ended ++ [a] })
    | none => w).st := by split <;> simp (maxDischargeDepth := 9) [h]
  exact kept_dropJob j (kept_releaseHold j r.dest h1)
@[simp] theorem kept_requeue (j r) (h : Kept P w.st) : Kept P (w.requeue j r).st := by
  unfold Work.requeue; dsimp only; split <;> simp (maxDischargeDepth := 9) [h]

/-! ### Batches -/

@[simp] theorem kept_setEntryState (n b st) (h : Kept P s) : Kept P (s.setEntryState n b st) := by
  unfold State.setEntryState
  split
  · next e => exact kept_setBatch _ _ (.inr (by simp [e])) h
  · exact h
@[simp] theorem kept_placeEntry (n b) (h : Kept P s) : Kept P (s.placeEntry n b) := by
  unfold State.placeEntry
  split
  · exact h
  · split
    · simp (maxDischargeDepth := 9) [h]
    · split
      · simp (maxDischargeDepth := 9) [h]
      · split
        · simp (maxDischargeDepth := 9) [h]
        · split <;> next e => simp (maxDischargeDepth := 9) [kept_placeFetch_eq h e]
@[simp] theorem kept_releaseEntry (n b) (h : Kept P s) : Kept P (s.releaseEntry n b) := by
  unfold State.releaseEntry
  split
  · next e => exact kept_placeEntry _ _ (kept_setBatch _ _ (.inr (by simp [e])) h)
  · exact h
@[simp] theorem kept_pace (k n) (h : Kept P s) : Kept P (State.pace k s n) := by
  induction k generalizing s with
  | zero => exact h
  | succ k ih =>
    unfold State.pace
    split
    · split
      · split
        · exact ih (kept_releaseEntry _ _ h)
        · exact h
      · exact h
    · exact h
@[simp] theorem kept_testDone (n) (h : Kept P s) : Kept P (s.testDone n) := by
  unfold State.testDone
  split
  · next e => exact kept_ite (kept_post _ _ _ _ (kept_setBatch _ _ (.inr (by simp [e])) h)) h
  · exact h
@[simp] theorem kept_settleBatch (n) (h : Kept P s) : Kept P (s.settleBatch n) := by
  simp (maxDischargeDepth := 9) [State.settleBatch, h]
@[simp] theorem kept_turnEntry (n b st) (h : Kept P s) : Kept P (s.turnEntry n b st) := by
  unfold State.turnEntry; split <;> simp (maxDischargeDepth := 9) [h]
omit [ClosedIn P] in
@[simp] theorem kept_paceDue (h : Kept P w.st) : Kept P w.paceDue.st := by
  unfold Work.paceDue; split <;> simp [h]
@[simp] theorem kept_deliverEntries (b t) (h : Kept P s) : Kept P (s.deliverEntries b t) := by
  refine kept_each ?_ _ h
  intro s n h
  (repeat' split) <;> simp (maxDischargeDepth := 9) [h]
@[simp] theorem kept_unshareEntries (b t o) (h : Kept P s) : Kept P (s.unshareEntries b t o) := by
  refine kept_each ?_ _ h
  intro s n h
  (repeat' split) <;> simp (maxDischargeDepth := 9) [h]
omit [ClosedIn P] in
theorem kept_foldl {α : Type} {f : State → α → State} (hf : ∀ s x, Kept P s → Kept P (f s x)) (l : List α)
    (h : Kept P s) : Kept P (l.foldl f s) := kept_each hf l h
@[simp] theorem kept_tryEntries (h : Kept P s) : Kept P s.tryEntries := by
  refine kept_each ?_ _ h
  intro s n h
  split
  · split
    · exact kept_foldl (fun s b h => by simp (maxDischargeDepth := 9) [h]) _ h
    · exact h
  · exact h

@[simp] theorem kept_paceAll (h : Kept P s) : Kept P s.paceAll := kept_each (fun _ _ => kept_settleBatch _) _ h

/-! ### Pages -/

@[simp] theorem kept_setPage (n st) (h : Kept P s) : Kept P (s.setPage n st) := ClosedIn.pages (P := P) _ h
@[simp] theorem kept_delPage (n) (h : Kept P s) : Kept P (s.delPage n) := ClosedIn.pages (P := P) _ h
@[simp] theorem kept_unplacePages (b) (h : Kept P s) : Kept P (s.unplacePages b) := ClosedIn.pages (P := P) _ h
@[simp] theorem kept_markDelivered (n b) (h : Kept P s) : Kept P (s.markDelivered n b) :=
  ClosedIn.delivered (P := P) _ h
@[simp] theorem kept_newStay (b) (h : Kept P s) : Kept P (s.newStay b) := ClosedIn.delivered (P := P) _ h
@[simp] theorem kept_deliverPage (g p) (h : Kept P s) : Kept P (s.deliverPage g p) := by
  simp (maxDischargeDepth := 9) [State.deliverPage, h]
@[simp] theorem kept_placePage (g) (h : Kept P s) : Kept P (s.placePage g) := by
  unfold State.placePage
  split
  · simp (maxDischargeDepth := 9) [h]
  · split
    · simp (maxDischargeDepth := 9) [h]
    · split <;> next e => simp (maxDischargeDepth := 9) [kept_placeFetch_eq h e]
@[simp] theorem kept_retryPage (g) (h : Kept P s) : Kept P (s.retryPage g) :=
  kept_ite (kept_setPage _ _ h) (kept_placePage _ h)
@[simp] theorem kept_tryPagesIf (f) (h : Kept P s) : Kept P (s.tryPagesIf f) :=
  kept_each (fun _ _ => kept_retryPage _) _ h
@[simp] theorem kept_tryPages (h : Kept P s) : Kept P s.tryPages := kept_tryPagesIf _ h
@[simp] theorem kept_addPage (g) (h : Kept P s) : Kept P (s.addPage g) := ClosedIn.pages (P := P) _ h
@[simp] theorem kept_createPage (n) (h : Kept P s) : Kept P (s.createPage n) := by
  unfold State.createPage; split <;> simp [h]
@[simp] theorem kept_deliverPages (b p) (h : Kept P s) : Kept P (s.deliverPages b p) :=
  kept_each (fun _ _ => kept_deliverPage _ _) _ h
@[simp] theorem kept_unsharePages (j) (h : Kept P s) : Kept P (s.unsharePages j) := ClosedIn.pages (P := P) _ h
@[simp] theorem kept_turnPage (n j st) (h : Kept P s) : Kept P (s.turnPage n j st) := by
  unfold State.turnPage; (repeat' split) <;> simp (maxDischargeDepth := 9) [h]

/-! ### Release -/

@[simp] theorem kept_claimTaken (c j) (h : Kept P s) : Kept P (s.claimTaken c j) := by
  unfold State.claimTaken; split <;> simp (maxDischargeDepth := 9) [h]
@[simp] theorem kept_grant (b) (h : Kept P w.st) : Kept P (w.grant b).st := by
  unfold Work.grant
  split
  · split
    · split
      · next e => simp (maxDischargeDepth := 9) [kept_newJob h e]
      · exact h
    · exact h
  · exact h
omit [ClosedIn P] in
@[simp] theorem kept_pagesDue (b) (h : Kept P w.st) : Kept P (w.pagesDue b).st := by
  unfold Work.pagesDue; split <;> simp [h]
@[simp] theorem kept_storageGrant (b) (h : Kept P w.st) : Kept P (w.storageGrant b).st := by
  unfold Work.storageGrant; dsimp only; split <;> simp (maxDischargeDepth := 9) [h]
@[simp] theorem kept_clearPosition (t p) (h : Kept P w.st) : Kept P (w.clearPosition t p).st := by
  simp (maxDischargeDepth := 9) [Work.clearPosition, h]
@[simp] theorem kept_emptyPosition (t p) (h : Kept P w.st) : Kept P (w.emptyPosition t p).st := by
  simp (maxDischargeDepth := 9) [Work.emptyPosition, h]
@[simp] theorem kept_setAttention (t p) (h : Kept P s) : Kept P (s.setAttention t p) := by
  simp (maxDischargeDepth := 9) [State.setAttention, h]
@[simp] theorem kept_setFill (b st) (h : Kept P s) : Kept P (s.setFill b st) := ClosedIn.fills (P := P) _ h
@[simp] theorem kept_dropFill (b) (h : Kept P w.st) : Kept P (w.dropFill b).st := by
  unfold Work.dropFill
  split
  · exact ClosedIn.fills (P := P) _ h
  · exact h
@[simp] theorem kept_fillPresented (b p) (h : Kept P s) : Kept P (s.fillPresented b p) := by
  unfold State.fillPresented
  split
  · simp (maxDischargeDepth := 9) [h]
  · exact ClosedIn.fills (P := P) _ h
theorem kept_transfer (t p b) (c : Claim) {j} (hj : w.st.job j = none ∧ j < 128)
    (hl : (w.st.station c.dest).lane.length < 4) (h : Kept P w.st) :
    Kept P (w.transfer t p b j c).st := by
  unfold Work.transfer
  extract_lets r w1
  have h1 : Kept P w1.st := by
    have := kept_ownedRecord (P := P) j r hj h
    exact kept_enRoute _ _ (kept_laneJoin _ _ hl this)
  clear_value w1
  simp (maxDischargeDepth := 9) [h1]
/-- A claim is taken by direct transfer where a record is free and its lane has room (R50). -/
theorem State.job_of_transferClaim {s : State} {b j : Nat} {c : Claim} (e : s.transferClaim b = some (c, j)) :
    (s.job j = none ∧ j < 128) ∧ (s.station c.dest).lane.length < 4 := by
  unfold State.transferClaim at e
  split at e
  · next hj =>
    split at e
    · next hc => cases e; exact ⟨State.job_of_freeJob hj, of_decide_eq_true (Bool.and_eq_true_iff.1 hc).2⟩
    · cases e
  · cases e
@[simp] theorem kept_toStorage (t p b) (h : Kept P w.st) : Kept P (w.toStorage t p b).1.st := by
  unfold Work.toStorage; split <;> simp (maxDischargeDepth := 9) [h]
@[simp] theorem kept_release (t p b) (h : Kept P w.st) : Kept P (w.release t p b).1.st := by
  unfold Work.release; dsimp only
  have h1 : Kept P (match w.st.transferClaim b with
    | some (c, j) => (w.transfer t p b j c, Released.transferred c.dest)
    | none => w.toStorage t p b).1.st := by
    split
    · next e =>
      exact kept_transfer _ _ _ _ (State.job_of_transferClaim e).1 (State.job_of_transferClaim e).2 h
    · simp [h]
  rw [apply_ite Prod.fst, apply_ite Work.st]
  exact kept_ite (kept_dropFill _ h1) h1
theorem kept_release_eq {t p b u o} (h : Kept P w.st) (e : w.release t p b = (u, o)) : Kept P u.st := by
  have := kept_release (P := P) t p b h
  rwa [e] at this
@[simp] theorem kept_fillRelease (p) (h : Kept P w.st) : Kept P (w.fillRelease p).1.st := by
  unfold Work.fillRelease
  split
  · split
    · exact h
    · split <;> next e => simp (maxDischargeDepth := 9) [kept_release_eq h e]
  · exact h
@[simp] theorem kept_fillTest (p) (h : Kept P w.st) : Kept P (w.fillTest p).st := by
  unfold Work.fillTest; (repeat' split) <;> simp (maxDischargeDepth := 9) [h]
omit [ClosedIn P] in
@[simp] theorem kept_fillTestDue (p) (h : Kept P w.st) : Kept P (w.fillTestDue p).st := h
@[simp] theorem kept_drain (p) (h : Kept P w.st) : Kept P (w.drain p).st := by
  unfold Work.drain
  split
  · split
    · exact kept_fillTestDue _ (kept_each (fun _ _ => kept_drainItem _ _ _) _ h)
    · exact h
  · exact h
@[simp] theorem kept_placeFill (b) (h : Kept P w.st) : Kept P (w.placeFill b).st := by
  unfold Work.placeFill
  split
  · next e => simp (maxDischargeDepth := 9) [kept_placeFetch_eq h e]
  · next e => simp (maxDischargeDepth := 9) [kept_placeFetch_eq h e]
  · next e => simp (maxDischargeDepth := 9) [kept_placeFetch_eq h e]
  · next e => simp (maxDischargeDepth := 9) [kept_placeFetch_eq h e]
  · simp (maxDischargeDepth := 9) [h]
@[simp] theorem kept_chooseFills (k) (h : Kept P w.st) : Kept P (Work.chooseFills k w).st := by
  induction k generalizing w with
  | zero => exact h
  | succ k ih =>
    unfold Work.chooseFills
    split
    · split
      · split
        · exact ih (kept_placeFill _ (ClosedIn.fills (P := P) _ h))
        · exact ClosedIn.noQualifier (P := P) _ h
      · exact ClosedIn.noQualifier (P := P) _ h
    · exact h
@[simp] theorem kept_retryFill (b) (h : Kept P w.st) : Kept P (w.retryFill b).st := by
  unfold Work.retryFill; split <;> simp (maxDischargeDepth := 9) [h]
@[simp] theorem kept_tryFills (h : Kept P w.st) : Kept P w.tryFills.st :=
  kept_work_each (fun _ _ => kept_retryFill _) _ h

end Sys2Proof.Machine
end

