-- ==== Sys2Proof/Laws/Moves.lean ====
section
/-! SUPPORT. What every operation keeps, continued: the end of an action (log 7), the uncertainty rule, arrivals
and presentation, the course of crane orders. -/

namespace Sys2Proof.Machine

variable {P : State → Prop} [ClosedIn P] {s : State} {w : Work}

/-! ### Ports -/

theorem kept_createPutaway {a b x n t} (h : Kept P s) (e : s.createPutaway a b x n = some t) : Kept P t := by
  unfold State.createPutaway at e
  cases hc : s.createJob a
      { kind := .putaway, aisle := some a, bin := b, source := .port, dest := .slot x, priority := 2,
        enqueued := n, origin := .return, active := false } with
  | none => simp [hc] at e
  | some p =>
    simp only [hc, Option.map_some, Option.some.injEq] at e
    subst e
    exact kept_createJob h hc

@[simp] theorem kept_putawayOrDefer (a b x) (h : Kept P s) : Kept P (s.putawayOrDefer a b x) := by
  unfold State.putawayOrDefer
  split
  · next e => exact kept_createPutaway h e
  · exact kept_setQueue_same _ _ rfl rfl h
@[simp] theorem kept_overflowJoin (a b) (h : Kept P s) : Kept P (s.overflowJoin a b) := kept_setCrane_same _ _ rfl h
theorem kept_toPort (a b o) (ho : ∀ j, o ≠ .job j) (h : Kept P s) : Kept P (s.toPort a b o) := by
  unfold State.toPort
  refine kept_setOwner _ _ (fun j e => absurd e (ho j)) (kept_setBinState _ _ (by simp) ?_ h)
  cases hk : s.reservedIn b a with
  | none => exact .inl rfl
  | some x =>
    refine .inr ?_
    have : (s.bin b).state.reserved? = some x := by
      unfold State.reservedIn at hk
      split at hk
      · next y hy => split at hk <;> simp_all
      · cases hk
    cases hs : (s.bin b).state <;> simp_all [BinState.reserved?, BinState.slotFor]
@[simp] theorem kept_toPort_none (a b) (h : Kept P s) : Kept P (s.toPort a b .none) := kept_toPort _ _ _ (by simp) h
@[simp] theorem kept_toPort_fire (a b) (h : Kept P s) : Kept P (s.toPort a b .fire) := kept_toPort _ _ _ (by simp) h

theorem kept_searchAtPort {a b t} (h : Kept P s) (e : s.searchAtPort a b = some t) : Kept P t := by
  unfold State.searchAtPort at e
  cases hc : s.aisleSearch (s.bin b).height (s.bin b).climate a with
  | none => simp [hc] at e
  | some x =>
    simp only [hc, Option.map_some, Option.some.injEq] at e
    subst e
    simp (maxDischargeDepth := 9) [h]

@[simp] theorem kept_retryPort (a) (h : Kept P s) : Kept P (s.retryPort a) := by
  refine kept_each ?_ _ h
  intro s b h
  split
  · refine kept_ite ?_ h
    cases hs : s.searchAtPort a b with
    | none => exact h
    | some t => exact kept_searchAtPort h hs
  · exact h

/-! ### The drain test and the audit -/

/-- A station that is not OPEN may take any state. -/
theorem kept_setStation_shut {t : StationNo} {r : Station} (hs : (s.station t).isOpen = false)
    (hl : r.lane = (s.station t).lane) (h : Kept P s) :
    Kept P (s.setStation t r) := kept_setStation _ _ (by simp [hs]) (.inl (by rw [hl])) h

@[simp] theorem kept_drainTest (t) (h : Kept P s) : Kept P (s.drainTest t) := by
  unfold State.drainTest; dsimp only
  split
  · split
    · next e => exact kept_post _ _ _ _ (kept_setStation_shut (by simp [Station.isOpen, e]) rfl h)
    · next e => exact kept_setStation_shut (by simp [Station.isOpen, e]) rfl h
    · exact h
  · exact h
@[simp] theorem kept_auditPassEnd (u) (h : Kept P s) : Kept P (s.auditPassEnd u) := by
  unfold State.auditPassEnd
  split
  · exact kept_post _ _ _ _ (ClosedIn.auditEnd (P := P) h)
  · exact ClosedIn.audit (P := P) _ h
@[simp] theorem kept_auditWalk (k u) (h : Kept P s) : Kept P (State.auditWalk k s u) := by
  induction k generalizing s u with
  | zero => exact ClosedIn.audit (P := P) _ h
  | succ k ih =>
    unfold State.auditWalk
    split
    · exact kept_auditPassEnd _ h
    · dsimp only
      split
      · split
        · next e => exact ih _ (kept_createJob h e)
        · exact ClosedIn.audit (P := P) _ h
      · exact ih _ h
@[simp] theorem kept_auditAdvance (u) (h : Kept P s) : Kept P (s.auditAdvance u) := kept_auditWalk _ _ h

/-! ### The end of an action -/

@[simp] theorem kept_serveDeferred (a) (h : Kept P s) : Kept P (s.serveDeferred a) := by
  refine kept_each ?_ _ h
  intro s e h
  split
  · split
    · next e => exact kept_setQueue_same _ _ rfl rfl (kept_createPutaway h e)
    · exact h
  · exact h
@[simp] theorem kept_serveAudit (t) (h : Kept P s) : Kept P (s.serveAudit t) := by
  unfold State.serveAudit
  split
  · exact kept_ite (kept_ite (kept_auditAdvance _ h) h) (kept_ite (kept_auditAdvance _ h) h)
  · exact h
@[simp] theorem kept_offer (t) (h : Kept P w.st) : Kept P (w.offer t).st := by
  unfold Work.offer
  dsimp only
  split
  · simp (maxDischargeDepth := 9) only [Work.on_st, kept_serveAudit, kept_tryPagesIf, kept_ite, kept_paceAll, h]
  · have h1 := kept_work_each (fun _ b => kept_grant (P := P) b) (w.st.pendingGrants (w.st.grantAisles t)) h
    have h2 := kept_each (fun _ a => kept_serveDeferred (P := P) a) (w.st.freedAisles t) h1
    refine kept_serveAudit _ (kept_tryFills (kept_tryPages (kept_ite (kept_paceAll ?_) ?_))) <;>
      exact kept_tryEntries h2
@[simp] theorem kept_offerFreed (h : Kept P w.st) : Kept P w.offerFreed.st := by
  unfold Work.offerFreed
  dsimp only
  rw [apply_ite Work.st]
  exact kept_ite h (kept_offer _ h)
/-! ### The port inbound buffers -/

/-- What the end of an action does before it comes to the ports adds no bin to a port inbound buffer. -/
theorem closedIn_buffer (a : Aisle) (n : Nat) : ClosedIn (fun s => (s.crane a).buffer.length ≤ n) where
  slot _ _ _ h := h
  bin _ _ _ _ _ _ h := h
  binState _ _ _ _ h := by simpa [State.crane] using h
  store _ _ h := by unfold State.storeBin; split <;> simpa [State.crane, State.setSlotState] using h
  reserve _ _ h := by unfold State.reserve; dsimp only; split <;> simpa [State.crane, State.setSlotState] using h
  owner _ _ _ h := h
  newRecord _ _ _ _ h := h
  modJob _ _ _ h := by unfold State.modJob; split <;> exact h
  dropJob _ h := by unfold State.dropJob; dsimp only; (repeat' split) <;> exact h
  queue _ _ _ h := h
  crane {s} c r hr h := by
    simp only [State.crane_setCrane]
    split
    · next e => subst e; exact hr.trans h
    · exact h
  station _ _ _ _ h := h
  batch _ _ _ h := h
  post _ _ _ _ h := by unfold State.post; split <;> exact h
  send _ _ _ h := h
  drainItem _ _ _ h := by unfold State.drainItem; (repeat' split) <;> exact h
  placeClaim _ _ _ _ h := by unfold State.placeClaim; split <;> exact h
  removeClaim _ h := h
  firePut _ _ _ h := h
  fireDrop _ h := h
  pages _ h := h
  delivered _ h := h
  fills _ h := h
  noQualifier _ h := h
  audit _ h := h
  auditEnd h := h

/-- What is offered before a port arrival is taken leaves the port inbound buffers no longer. -/
theorem offerFreed_buffer (w : Work) (a : Aisle) :
    (w.offerFreed.st.crane a).buffer.length ≤ (w.st.crane a).buffer.length :=
  haveI := closedIn_buffer a (w.st.crane a).buffer.length
  kept_offerFreed (P := fun s => (s.crane a).buffer.length ≤ (w.st.crane a).buffer.length) (le_refl _)

section port
variable {P : State → Prop} [Closed P] {s : State} {w : Work}

theorem kept_bufferJoin (a b) (hb : (s.crane a).buffer.length < 2) (h : Kept P s) : Kept P (s.bufferJoin a b) :=
  Closed.port (P := P) a b hb h
@[simp] theorem State.toPort_crane (s : State) (a b o c) : (s.toPort a b o).crane c = s.crane c := by
  show (s.setBinState b _).cranes[c] = s.cranes[c]
  rw [State.setBinState_cranes]
theorem kept_takeAtPort (a b) (hb : (s.crane a).buffer.length < 2) (h : Kept P s) : Kept P (s.takeAtPort a b) := by
  unfold State.takeAtPort; dsimp only
  have h1 : Kept P ((s.toPort a b .none).bufferJoin a b) :=
    kept_bufferJoin _ _ (by simpa using hb) (kept_toPort_none _ _ h)
  split
  · simp (maxDischargeDepth := 9) [h1]
  · split
    · next e => exact kept_searchAtPort h1 e
    · simp (maxDischargeDepth := 9) [h1]
@[simp] theorem kept_overflowHead (a) (h : Kept P s) : Kept P (s.overflowHead a) := by
  unfold State.overflowHead
  split
  · next b t _ =>
    refine kept_ite' (fun hc => ?_) (fun _ => h)
    have h1 : Kept P (s.setCrane a { s.crane a with overflow := t }) := kept_setCrane_same _ _ rfl h
    exact kept_ite (kept_takeAtPort _ _ (by simpa [Config.bufferPlaces] using hc) h1)
      (kept_bufferJoin _ _ (by simpa [Config.bufferPlaces] using hc) (kept_toPort_fire _ _ h1))
  · exact h
@[simp] theorem kept_round (h : Kept P w.st) : Kept P w.round.st := by
  unfold Work.round
  dsimp only
  have h1 : Kept P (w.st.each w.todo.lanes (fun s u => (s.drainTest u).selectFor u)) :=
    kept_each (fun _ _ h => kept_selectFor _ (kept_drainTest _ h)) _ h
  have h2 := kept_each (fun _ t => kept_drainTest (P := P) t) w.todo.emptied h1
  have h3 := kept_offer (P := P) (w := { st := _, todo := Todo.none }) w.todo h2
  have h4 := kept_each (fun _ a => kept_overflowHead (P := P) a) w.todo.buffers
    (kept_work_each (fun _ p => kept_fillTest (P := P) p) w.todo.tests h3)
  split
  · exact kept_chooseFills _ h4
  · exact h4
@[simp] theorem kept_settle (h : Kept P w.st) : Kept P w.settle := by
  unfold Work.settle
  have : ∀ k (w : Work), Kept P w.st → Kept P (Work.settleWith k w) := by
    intro k
    induction k with
    | zero => intro w h; exact h
    | succ k ih =>
      intro w h
      unfold Work.settleWith
      split
      · exact h
      · exact ih _ (kept_round h)
  exact this _ _ h

/-! ### The uncertainty rule and withdrawals -/

@[simp] theorem kept_fetchFailed (b e) (h : Kept P s) : Kept P (s.fetchFailed b e) := by
  unfold State.fetchFailed; split <;> simp [h]
@[simp] theorem kept_fillEnded (b e) (h : Kept P w.st) : Kept P (w.fillEnded b e).st := by
  unfold Work.fillEnded; split <;> simp [h]
@[simp] theorem kept_unshare (j r) (h : Kept P s) : Kept P (s.unshare j r) := by
  unfold State.unshare; split <;> simp [h]
@[simp] theorem kept_tellFetchEnd (j r e) (h : Kept P w.st) : Kept P (w.tellFetchEnd j r e).st := by
  unfold Work.tellFetchEnd
  split
  · dsimp only
    refine kept_unshare _ _ ?_
    split <;> simp [h]
  · exact h
@[simp] theorem kept_positionUnknown (t p) (h : Kept P s) : Kept P (s.positionUnknown t p) :=
  kept_setPosition _ _ _ h
@[simp] theorem kept_dropPlaces (b f) (h : Kept P w.st) : Kept P (w.dropPlaces b f).st := by
  unfold Work.dropPlaces
  extract_lets w1 w2
  have h2 : Kept P w2.st := by
    refine kept_work_each ?_ _ (kept_leaveLanes _ h)
    intro w a h
    dsimp only
    rw [apply_ite Work.st]
    have h1 := kept_setCrane a ((w.st.crane a).leavePort b)
      (by simpa [Crane.leavePort, Crane.leaveBuffer] using List.length_filter_le _ _) h
    exact kept_ite (kept_setQueue_same _ _ rfl rfl h1) (kept_setQueue_same _ _ rfl rfl h1)
  clear_value w2
  split
  · dsimp only
    rw [apply_ite Work.st]
    refine kept_ite (kept_dropFill _ ?_) ?_ <;> split <;> simp (maxDischargeDepth := 9) [h2]
  · exact h2
@[simp] theorem kept_makeUncertain (b f e) (h : Kept P w.st) : Kept P (w.makeUncertain b f e).st := by
  unfold Work.makeUncertain
  extract_lets job w1 w2
  have h1 : Kept P w1.st := kept_disown _ (kept_uncertain _ (kept_dropPlaces _ _ h))
  clear_value w1 job
  have h2 : Kept P w2.st := by
    simp only [w2]
    split
    · split
      · simp (maxDischargeDepth := 9) [h1]
      · exact h1
    · exact h1
  exact kept_unplacePages _ (ClosedIn.fireDrop (P := P) _ (kept_dropFill _ h2))
@[simp] theorem kept_cancelJob (j r) (h : Kept P w.st) : Kept P (w.cancelJob j r).st := by
  simp (maxDischargeDepth := 9) [Work.cancelJob, h]
@[simp] theorem kept_withdrawJobs (l) (h : Kept P w.st) : Kept P (w.withdrawJobs l).st :=
  kept_work_each (fun _ _ => kept_storageGrant _) _
    (kept_work_each (fun _ e h => kept_unshare _ _ (kept_endJob e.1 e.2 h)) _ h)
@[simp] theorem kept_withdrawClaim (c) (h : Kept P w.st) : Kept P (w.withdrawClaim c).st := by
  simp (maxDischargeDepth := 9) [Work.withdrawClaim, h]
@[simp] theorem kept_withdrawPage (n) (h : Kept P w.st) : Kept P (w.withdrawPage n).st := by
  unfold Work.withdrawPage
  split
  · extract_lets w1 w2
    have h1 : Kept P w1.st := by simp [w1, h]
    have h2 : Kept P w2.st := by
      simp only [w2]
      split
      · exact kept_withdrawClaim _ h1
      · exact h1
    clear_value w2
    (repeat' split) <;> simp [h2]
  · exact h
@[simp] theorem kept_withdrawItemPage (n) (h : Kept P w.st) : Kept P (w.withdrawItemPage n).st := by
  unfold Work.withdrawItemPage; split <;> simp [h]
@[simp] theorem kept_withdrawFills (h : Kept P w.st) : Kept P w.withdrawFills.st := by
  unfold Work.withdrawFills
  exact kept_withdrawJobs _ (kept_work_each (fun _ _ => kept_withdrawClaim _) _ (ClosedIn.fills (P := P) _ h))

/-! ### Presentation and arrivals -/

@[simp] theorem kept_present (b t p f) (h : Kept P s) : Kept P (s.present b t p f) := by
  simp (maxDischargeDepth := 9) [State.present, h]
@[simp] theorem kept_satisfy (t p c) (h : Kept P w.st) : Kept P (w.satisfy t p c).st := by
  unfold Work.satisfy
  dsimp only
  have h1 := kept_withdrawClaim c h
  (repeat' split) <;> simp [h1]
@[simp] theorem kept_servePresented (b t p) (h : Kept P w.st) : Kept P (w.servePresented b t p).st := by
  unfold Work.servePresented
  extract_lets w1 w2
  have h1 : Kept P w1.st := kept_work_each (fun _ c => kept_satisfy (P := P) t p c) _ h
  have h2 : Kept P w2.st := by simp (maxDischargeDepth := 9) [w2, h1]
  exact kept_ite (kept_deliverPages _ _ h2) h2
@[simp] theorem kept_afterPresent (b t p) (h : Kept P w.st) : Kept P (w.afterPresent b t p).st := by
  unfold Work.afterPresent
  dsimp only
  rw [apply_ite Work.st]
  exact kept_ite (kept_drain _ (kept_servePresented _ _ _ h)) (kept_servePresented _ _ _ h)
@[simp] theorem kept_afterArrival (b t p) (h : Kept P w.st) : Kept P (w.afterArrival b t p).st :=
  kept_pagesDue _ (kept_afterPresent _ _ _ h)
@[simp] theorem kept_deliverOwnPage (n j t p) (h : Kept P s) : Kept P (s.deliverOwnPage n j t p) := by
  unfold State.deliverOwnPage; (repeat' split) <;> simp [h]
@[simp] theorem kept_tellDelivered (j r t p) (h : Kept P w.st) : Kept P (w.tellDelivered j r t p).st := by
  unfold Work.tellDelivered; split <;> simp [h]
@[simp] theorem kept_deliver (t p b f) (h : Kept P w.st) : Kept P (w.deliver t p b f).st := by
  unfold Work.deliver
  extract_lets job w1 w2
  have h1 : Kept P w1.st := by simp (maxDischargeDepth := 9) [w1, h]
  clear_value w1 job
  refine kept_afterArrival _ _ _ ?_
  simp only [w2]
  split
  · split
    · simp (maxDischargeDepth := 9) [h1]
    · exact h1
  · exact h1
@[simp] theorem kept_misroute (t p b u) (h : Kept P w.st) : Kept P (w.misroute t p b u).st := by
  unfold Work.misroute
  extract_lets job w1 w2 w3
  have h2 : Kept P w2.st := by simp (maxDischargeDepth := 9) [w2, w1, h]
  clear_value w2 job
  refine kept_afterArrival _ _ _ ?_
  simp only [w3]
  split
  · split
    · simp (maxDischargeDepth := 9) [h2]
    · exact h2
  · exact h2
@[simp] theorem kept_found (t p b) (h : Kept P w.st) : Kept P (w.found t p b).st := by
  simp (maxDischargeDepth := 9) [Work.found, h]
@[simp] theorem kept_movePosition (t p q b f) (h : Kept P w.st) : Kept P (w.movePosition t p q b f).st := by
  unfold Work.movePosition
  extract_lets r w1 w2 was w3 w4
  have h2 : Kept P w2.st := by simp (maxDischargeDepth := 9) [w2, w1, h]
  clear_value w2
  have h3 : Kept P w3.st := by simp only [w3]; rw [apply_ite Work.st]; exact kept_ite (by simp [h2]) h2
  have h4 : Kept P w4.st := kept_servePresented _ _ _ h3
  refine kept_pagesDue _ ?_
  rw [apply_ite Work.st]
  exact kept_ite (kept_drain _ h4) h4
@[simp] theorem kept_arrive (t p b f) (h : Kept P w.st) : Kept P (w.arrive t p b f).st := by
  unfold Work.arrive
  (repeat' split) <;> simp (maxDischargeDepth := 9) [h]
@[simp] theorem kept_arriveUnread (t p o) (h : Kept P w.st) : Kept P (w.arriveUnread t p o).st := by
  unfold Work.arriveUnread
  extract_lets w1
  have h1 : Kept P w1.st := by simp only [w1]; split <;> simp [h]
  exact kept_post _ _ _ _ (kept_setPosition _ _ _ h1)
@[simp] theorem kept_stationArrival (t p o) (h : Kept P w.st) : Kept P (w.stationArrival t p o).st := by
  unfold Work.stationArrival
  (repeat' split) <;> simp (maxDischargeDepth := 9) [h]
@[simp] theorem kept_portArrival (a o) (h : Kept P w.st) : Kept P (w.portArrival a o).st := by
  unfold Work.portArrival
  split
  · simp [h]
  · next b =>
    rw [apply_ite Work.st]
    refine kept_ite (by simp [h]) ?_
    rw [apply_ite Work.st]
    refine kept_ite h ?_
    extract_lets w1 full
    have h1 : Kept P w1.st := by
      simp only [w1]
      rw [apply_ite Work.st]
      exact kept_ite (by simp [h]) h
    clear_value w1
    rw [apply_ite Work.st, apply_ite Work.st]
    refine kept_ite ?_ (kept_ite' (fun _ => by simp (maxDischargeDepth := 9) [h1]) (fun hf => ?_))
    · exact kept_ite' (fun _ => by simp (maxDischargeDepth := 9) [h1])
        (fun hf => kept_bufferJoin _ _ (by simpa [full, Config.bufferPlaces] using hf) (kept_toPort_fire _ _ h1))
    · have h2 := kept_offerFreed h1
      have hb := offerFreed_buffer w1 a
      have hf' : ¬2 ≤ (w1.st.crane a).buffer.length := hf
      simp only [Work.on_st]
      generalize w1.offerFreed.st = u at h2 hb ⊢
      split
      · refine kept_takeAtPort _ _ ?_ (kept_post _ _ _ _ h2)
        simp only [State.crane, State.post_cranes] at hb ⊢
        exact Nat.lt_of_le_of_lt hb (Nat.lt_of_not_le hf')
      · exact kept_takeAtPort _ _ (Nat.lt_of_le_of_lt hb (Nat.lt_of_not_le hf')) h2

/-! ### The course of crane orders -/

/-- A bin that goes onto the forks keeps the slot it had reserved, or names none (R3, R87). -/
theorem BinState.slotFor_onCrane (b : Nat) (q : BinState) :
    (BinState.onCrane q.reserved?).slotFor b = none ∨
      (BinState.onCrane q.reserved?).slotFor b = q.slotFor b := by
  cases q <;> simp [BinState.reserved?, BinState.slotFor]

@[simp] theorem kept_linkError (a m n) (h : Kept P s) : Kept P (s.linkError a m n) := kept_post _ _ _ _ h
@[simp] theorem kept_lateDone (a n m) (h : Kept P s) : Kept P (s.lateDone a n m) := kept_post _ _ _ _ h
@[simp] theorem kept_setDrive (a p l) (h : Kept P s) : Kept P (s.setDrive a p l) := kept_setCrane_same _ _ rfl h
@[simp] theorem kept_clearOrder (a) (h : Kept P s) : Kept P (s.clearOrder a) := kept_setCrane_same _ _ rfl h
@[simp] theorem kept_markPicked (a) (h : Kept P s) : Kept P (s.markPicked a) := kept_setCrane_same _ _ rfl h
@[simp] theorem kept_pickEffects (a r) (h : Kept P w.st) : Kept P (w.pickEffects a r).st := by
  unfold Work.pickEffects
  extract_lets b c w1
  split
  · simp (maxDischargeDepth := 9) [h]
  · rw [apply_ite Work.st]
    have h1 : Kept P w1.st := by
      exact kept_setBinState _ _ (by simp) (BinState.slotFor_onCrane _ _)
        (kept_setCrane _ _ (List.length_filter_le _ _) h)
    simp [h1]
  · simp only [Work.on_st]
    refine kept_retryPort _ ?_
    split <;> simp (maxDischargeDepth := 9) [h]
  · exact h
  · exact h
@[simp] theorem kept_pickIfNeeded (a o r) (h : Kept P w.st) : Kept P (w.pickIfNeeded a o r).st := by
  unfold Work.pickIfNeeded; split <;> simp [h]
@[simp] theorem kept_strandSlot (a b f) (h : Kept P s) : Kept P (s.strandSlot a b f) := by
  unfold State.strandSlot
  split
  · exact h
  · split
    · simp [h]
    · split <;> simp [h]
@[simp] theorem kept_createPutback (a b) (h : Kept P s) : Kept P (s.createPutback a b) := by
  unfold State.createPutback
  split
  · next n hn =>
    refine kept_ite' (fun hc => ?_) (fun _ => h)
    have h4 := kept_takeRecord (P := P) n (putbackJob a b (s.bin b).state.reserved? s.svp.tick)
      (State.job_of_freeJob hn) h
    have hr : ∀ (r : Job), (s.takeRecord n r).job n = some r := by
      simp [State.takeRecord, State.job, State.setJob]
    have hq : (s.queue a).used < 32 := of_decide_eq_true hc
    refine kept_ite (kept_setOwner _ _ ?_ (kept_enqueue _ _ hq h4))
      (ClosedIn.firePut (P := P) _ _ ⟨_, hr _, rfl⟩ (kept_ownFire _ (kept_setQueue _ _ (.inr ?_) h4)))
    · rintro _ ⟨⟩
      exact ⟨_, hr _, rfl⟩
    · have : ((s.takeRecord n (putbackJob a b (s.bin b).state.reserved? s.svp.tick)).queue a).jobs.length < 32 :=
        Nat.lt_of_le_of_lt (Nat.le_add_right _ _) hq
      simp only [Queue.used, Option.isSome_some, if_true]
      exact this
  · exact h
@[simp] theorem kept_strand (a j r) (h : Kept P w.st) : Kept P (w.strand a j r).st := by
  unfold Work.strand
  simp (maxDischargeDepth := 9) [h]
@[simp] theorem kept_strandResume (a) (h : Kept P w.st) : Kept P (w.strandResume a).st := by
  unfold Work.strandResume; (repeat' split) <;> simp (maxDischargeDepth := 9) [h]
@[simp] theorem kept_startRest (a) (h : Kept P s) : Kept P (s.startRest a) := by
  unfold State.startRest; split <;> simp [h]
@[simp] theorem kept_enterIdle (a) (h : Kept P w.st) : Kept P (w.enterIdle a).st := by
  unfold Work.enterIdle
  dsimp only
  (repeat' split) <;> simp (maxDischargeDepth := 9) [h]
@[simp] theorem kept_wakeParked (a) (h : Kept P s) : Kept P (s.wakeParked a) := by
  unfold State.wakeParked
  split
  · next hc => exact kept_sendWake _ _ (by simp at hc; exact hc.2) h
  · exact h
@[simp] theorem kept_complete (a j r) (h : Kept P w.st) : Kept P (w.complete a j r).st := by
  unfold Work.complete
  extract_lets b
  split
  · split <;> simp (maxDischargeDepth := 9) [h]
  · cases ((w.st.bin b).state.reserved?).or r.destSlot? <;> simp (maxDischargeDepth := 9) [h]
@[simp] theorem kept_verifyResult (x e o) (h : Kept P w.st) : Kept P (w.verifyResult x e o).st := by
  unfold Work.verifyResult
  dsimp only
  (repeat' split) <;> simp (maxDischargeDepth := 9) [h]
@[simp] theorem kept_halt (a f n) (h : Kept P s) : Kept P (s.halt a f n) := by
  simp (maxDischargeDepth := 9) [State.halt, h]
@[simp] theorem kept_unselect (a) (h : Kept P w.st) : Kept P (w.unselect a).st := by
  unfold Work.unselect
  dsimp only
  (repeat' split) <;> simp (maxDischargeDepth := 9) [h]
@[simp] theorem kept_readyWaking (a) (h : Kept P w.st) : Kept P (w.readyWaking a).st := by
  unfold Work.readyWaking
  split
  · split
    · split
      · next hc =>
        simp only [State.commonConditions, Bool.and_eq_true] at hc
        refine kept_sendOrderFor _ _ _ ?_ (by simp [h])
        rw [State.canOrder_congr (t := w.st) (by simp), hc.1.2]
      · simp (maxDischargeDepth := 9) [h]
    · simp (maxDischargeDepth := 9) [h]
  · simp (maxDischargeDepth := 9) [h]

end port

end Sys2Proof.Machine
end

