-- ==== Sys2Proof/Laws/Answers.lean ====
section
/-! SUPPORT. Laws of requests and answers: what a request frame meets, the form of every request's meaning, and
what an action leaves when nothing waits. -/

namespace Sys2Proof.Machine

/-! ### Requests -/

/-- A response is an answer under the request's tag. -/
theorem respond_eq_answer (s : State) (h : Hdr) (r : Reply) :
    s.respond h.tag r = s.answer h r.code r.clamped r.fields := rfl

/-- A request that is served is its body, and the body's reply fills the slot. -/
theorem serveAs_served (k : Service) (h : Hdr) (s : State) (body : State → State × Reply) (hs : Served h s) :
    serveAs k h s body =
      .next ((body s).1.answer h (body s).2.code (body s).2.clamped (body s).2.fields) := by
  obtain ⟨h1, h2, h3, h4⟩ := hs
  have h2' : ¬h.tag = 0#8 := h2
  cases k <;> simp [serveAs, h1, h2', h3, h4, Service.refusal, respond_eq_answer]

/-- A request that is served is its body, and the body's reply fills the slot. -/
theorem serve_served (h : Hdr) (s : State) (body : State → State × Reply) (hs : Served h s) :
    serve h s body =
      .next ((body s).1.answer h (body s).2.code (body s).2.clamped (body s).2.fields) :=
  serveAs_served _ h s body hs

/-- A request always answers a next state. -/
theorem serveAs_next (k : Service) (h : Hdr) (s : State) (body : State → State × Reply) :
    ∃ t, serveAs k h s body = .next t := by
  unfold serveAs
  repeat' split
  all_goals exact ⟨_, rfl⟩

/-! ### Records written twice -/

/-- Of two writes of one record the later stands. -/
theorem Tab.put_put {α : Type} (t : Tab α) (n : Nat) (v w : α) :
    Tab.put (Tab.put t n v) n w = Tab.put t n w := by
  induction t with
  | nil => simp [Tab.put]
  | cons e t ih =>
    obtain ⟨k, u⟩ := e
    by_cases h1 : n < k
    · simp [Tab.put, h1]
    · by_cases h2 : n = k
      · simp [Tab.put, h2]
      · simp [Tab.put, h1, h2, ih]

/-- A record removed after a write is as one removed. -/
theorem Tab.del_put {α : Type} (t : Tab α) (n : Nat) (v : α) : Tab.del (Tab.put t n v) n = Tab.del t n := by
  induction t with
  | nil => simp [Tab.put, Tab.del]
  | cons e t ih =>
    obtain ⟨k, u⟩ := e
    by_cases h1 : n < k
    · simp [Tab.put, h1, Tab.del]
    · by_cases h2 : n = k
      · simp [Tab.put, h2, Tab.del]
      · have : ¬k = n := Ne.symm h2
        simp only [Tab.del] at ih
        simp [Tab.put, h1, h2, Tab.del, this, ih]

/-- Of two removals of one record the second changes nothing. -/
theorem Tab.del_del {α : Type} (t : Tab α) (n : Nat) : Tab.del (Tab.del t n) n = Tab.del t n := by
  simp [Tab.del]

/-- Of two writes of a bin record the later stands, when the first leaves the record listed. -/
theorem State.setBin_setBin (s : State) (b : Nat) (r q : Bin) (h : r ≠ Bin.unused) :
    (s.setBin b r).setBin b q = s.setBin b q := by
  unfold State.setBin
  by_cases h' : q = Bin.unused <;> simp [h, h', Tab.put_put, Tab.del_put]

/-- Of two writes of a slot record the later stands, when the first leaves the record listed. -/
theorem State.setSlot_setSlot (s : State) (x : SlotAddr) (r q : Slot) (h : r ≠ Slot.initial x) :
    (s.setSlot x r).setSlot x q = s.setSlot x q := by
  unfold State.setSlot
  by_cases h' : q = Slot.initial x <;> simp [h, h', Tab.put_put, Tab.del_put]

/-- Writes of a bin record and of a slot record in either order. -/
theorem State.setBin_setSlot (s : State) (b : Nat) (x : SlotAddr) (r : Slot) (q : Bin) :
    (s.setSlot x r).setBin b q = (s.setBin b q).setSlot x r := rfl

/-! ### What waits -/

/-- Where no crane can be selected for, a selection changes nothing. -/
theorem selectAisle_unavailable {s : State} {a : Aisle} (h : (s.crane a).available = false) :
    s.selectAisle a = s := by simp [State.selectAisle, h]

/-- Where no crane can be selected for, a selection in some aisles changes nothing. -/
theorem each_selectAisle_none {s : State} (h : s.NoneAvailable) (l : List Aisle) :
    s.each l State.selectAisle = s := by
  induction l with
  | nil => rfl
  | cons a l ih => simpa [State.each, selectAisle_unavailable (h a)] using ih

/-- Where no crane can be selected for, a selection in every aisle changes nothing. -/
theorem selectAll_none {s : State} (h : s.NoneAvailable) : s.selectAll = s := each_selectAisle_none h _

/-- Where no crane can be selected for, the selections for a station change nothing. -/
theorem selectFor_none {s : State} (h : s.NoneAvailable) (t : StationNo) : s.selectFor t = s :=
  each_selectAisle_none h _

/-- An unclaimed bin meets no grant. -/
theorem grant_unclaimed {w : Work} {b : Nat} (h : w.st.oldestClaim b = none) : w.grant b = w := by
  unfold Work.grant; rw [h]; split <;> simp_all

/-- With no page of a bin, none is due. -/
theorem pagesDue_none {w : Work} {b : Nat} (h : ∀ g ∈ w.st.circ.pages, g.bin ≠ b) : w.pagesDue b = w := by
  have : w.st.circ.pages.any (fun g => g.state = .unplaced && g.bin = b) = false := by
    rw [List.any_eq_false]; intro g hg; simp [h g hg]
  simp [Work.pagesDue, this]

/-- With no batch, nothing is to be released. -/
theorem paceDue_none {w : Work} (h : w.st.stu.batches = []) : w.paceDue = w := by
  simp [Work.paceDue, State.paces, h]

/-- With no batch, the releases of the PACED ones change nothing. -/
theorem paceAll_none {s : State} (h : s.stu.batches = []) : s.paceAll = s := by
  simp [State.paceAll, State.batchOrder, h, sortBy, State.each]

/-- With no page on the list, none is tried. -/
theorem tryPagesIf_none {s : State} (h : s.circ.pages = []) (f : Page → Bool) : s.tryPagesIf f = s := by
  simp [State.tryPagesIf, h, State.each]

/-- A storage grant point at which nothing waits for the bin changes nothing. -/
theorem storageGrant_quiet {w : Work} {b : Nat} (h : w.st.Quiet b) : w.storageGrant b = w := by
  have h1 : w.grant b = w := grant_unclaimed h.unclaimed
  simp only [Work.storageGrant, h.noQualifier, Bool.false_eq_true, if_false, h1]
  exact pagesDue_none h.unpaged

/-- A station that is not draining passes the drain test unchanged. -/
theorem drainTest_of_not_draining {s : State} {t : StationNo} (h : (s.station t).isDraining = false) :
    s.drainTest t = s := by
  simp only [Station.isDraining] at h
  simp only [State.drainTest]
  split
  · split <;> simp_all
  · rfl

/-- A step that leaves the state alone, applied in turn, leaves it alone. -/
theorem each_id {α : Type} {s : State} {l : List α} {f : State → α → State} (h : ∀ x ∈ l, f s x = s) :
    s.each l f = s := by
  induction l with
  | nil => rfl
  | cons a l ih =>
    have h1 : f s a = s := h a (by simp)
    have h2 := ih (fun x hx => h x (by simp [hx]))
    simpa [State.each, h1] using h2

/-- Where nothing waits, an offer of freed places changes nothing. -/
theorem offer_nothing {w : Work} (h : w.st.NothingWaits) (t : Todo) : w.offer t = w := by
  obtain ⟨s, o⟩ := w
  obtain ⟨h1, h2, h3, h4, h5, h6, h7⟩ := h
  have e1 : ∀ as, s.pendingGrants as = [] := by
    intro as; simp only at h1; simp [State.pendingGrants, h1, sortBy]
  have e2 : ∀ as, s.each as State.serveDeferred = s := by
    intro as; apply each_id; intro a _; simp only at h2
    have : s.awaiting a = [] := by simp [State.awaiting, h2]
    simp [State.serveDeferred, this, State.each]
  have e3 : s.tryEntries = s := by simp only at h3; simp [State.tryEntries, State.batchOrder, h3, sortBy, State.each]
  have e4 : ∀ f, s.tryPagesIf f = s := tryPagesIf_none h4
  have e5 : s.paceAll = s := paceAll_none h3
  have e6 : s.serveAudit t = s := by simp only at h7; simp [State.serveAudit, h7]
  simp only at h5
  unfold Work.offer
  dsimp only
  split <;>
    simp [Work.on, e1, e2, e3, e4, e5, e6, State.tryPages, Work.each, Work.tryFills, h5]

/-- With no fill bin, the fill release tests change nothing. -/
theorem tests_nothing {w : Work} (h : w.st.riu.fills = []) (l : List Pos) : w.each l Work.fillTest = w := by
  have e : ∀ p, w.fillTest p = w := by
    intro p
    unfold Work.fillTest
    split
    · simp [State.fillAt, State.fillOf, h]
    · rfl
  induction l with
  | nil => rfl
  | cons a l ih => simpa [Work.each, e a] using ih

/-- Where nothing waits, no crane can be selected for and no station drains, the end of an action changes
nothing, whatever it freed but a port buffer place or a fill bin's place at an open S4. -/
theorem settle_nothing {w : Work} (h : w.st.NothingWaits) (hn : w.st.NoneAvailable)
    (hd : ∀ t, (w.st.station t).isDraining = false) (hb : w.todo.buffers = [])
    (hc : w.todo.choose = true → (w.st.station fillStation).isOpen = false) : w.settle = w.st := by
  obtain ⟨s, o⟩ := w
  simp only at h hn hd hb hc
  have e1 : ∀ l, s.each l (fun s u => (s.drainTest u).selectFor u) = s := by
    intro l; apply each_id; intro u _; rw [drainTest_of_not_draining (hd u), selectFor_none hn]
  have e2 : ∀ l, s.each l State.drainTest = s := by
    intro l; apply each_id; intro u _; exact drainTest_of_not_draining (hd u)
  have e3 : Work.round { st := s, todo := o } = { st := s, todo := Todo.none } := by
    have e : ∀ o', Work.offer { st := s, todo := Todo.none } o' = { st := s, todo := Todo.none } :=
      fun o' => offer_nothing (by exact h) o'
    simp only [Work.round, Work.on, e1, e2, hb, e, tests_nothing (w := { st := s, todo := Todo.none }) h.fills]
    simp only [State.each, List.foldl_nil]
    split
    · next hch => simp [Work.chooseFills, hc hch]
    · rfl
  by_cases hdone : o = Todo.none
  · exact Work.settle_of_done _ hdone
  · show Work.settleWith (63 + 1) { st := s, todo := o } = s
    rw [Work.settleWith]
    simp only [hdone, if_false, e3]
    simp [Work.settleWith]

/-- An action that has only emptied positions of stations that do not drain leaves nothing else to do. -/
theorem settle_emptied {s : State} {l : List StationNo} (hd : ∀ t ∈ l, (s.station t).isDraining = false) :
    Work.settle { st := s, todo := { Todo.none with emptied := l } } = s := by
  by_cases hl : l = []
  · subst hl; rfl
  have e2 : s.each l State.drainTest = s := by
    apply each_id; intro u hu; exact drainTest_of_not_draining (hd u hu)
  have e4 : s.serveAudit { Todo.none with emptied := l } = s := by
    unfold State.serveAudit; split
    · split <;> simp [Todo.none]
    · rfl
  have e5 : s.tryPagesIf (fun _ => false) = s := by simp [State.tryPagesIf, State.each]
  have e3 : Work.round { st := s, todo := { Todo.none with emptied := l } } = { st := s, todo := Todo.none } := by
    simp only [Work.round, Work.on, Todo.none, State.each, List.foldl_nil] at *
    rw [show List.foldl State.drainTest s l = s from e2]
    simp [Work.offer, Work.on, Work.each, e5]
    exact e4
  have : ({ Todo.none with emptied := l } : Todo) ≠ Todo.none := by
    intro hc; exact hl (congrArg Todo.emptied hc)
  show Work.settleWith (63 + 1) _ = s
  rw [Work.settleWith]
  simp only [this, if_false, e3]
  simp [Work.settleWith]

/-- What waits for a bin depends on the claims, the circulation and the returns induction alone. -/
theorem quiet_of_eq {s t : State} {b : Nat} (h : s.Quiet b) (h1 : t.clu = s.clu) (h2 : t.circ = s.circ)
    (h3 : t.riu = s.riu) : t.Quiet b := by
  obtain ⟨a1, a2, a3, a4⟩ := h
  constructor <;> simp_all [State.oldestClaim, State.fillOf]

/-- A presentation of a bin for which nothing waits, with no batch, has no further effect. -/
theorem afterPresent_quiet {w : Work} {b : Nat} (h : w.st.Quiet b) (hb : w.st.stu.batches = []) (t : StationNo)
    (p : Pos) : w.afterPresent b t p = w := by
  obtain ⟨s, o⟩ := w
  simp only at h hb
  have e1 : s.claimsOn b = [] := by
    have := h.unclaimed
    simp only [State.oldestClaim, List.find?_eq_none] at this
    simp only [State.claimsOn, List.filter_eq_nil_iff]
    exact this
  have e2 : s.deliverEntries b t = s := by simp [State.deliverEntries, State.batchOrder, hb, sortBy, State.each]
  have e3 : s.deliverPages b p = s := by
    have : s.circ.pages.filter (fun g => (g.bin = b : Bool)) = [] := by
      rw [List.filter_eq_nil_iff]; intro g hg; simp [h.unpaged g hg]
    simp [State.deliverPages, this, State.each]
  have e4 : s.fillAt b p = false := by simp [State.fillAt, h.unfilled]
  have e5 : ∀ o, Work.paceDue { st := s, todo := o } = { st := s, todo := o } := fun o => paceDue_none hb
  simp [Work.afterPresent, Work.servePresented, e1, Work.each, Work.on, e2, e3, e4, e5]

/-- The same of a presentation by a station arrival. -/
theorem afterArrival_quiet {w : Work} {b : Nat} (h : w.st.Quiet b) (hb : w.st.stu.batches = []) (t : StationNo)
    (p : Pos) : w.afterArrival b t p = w := by
  rw [Work.afterArrival, afterPresent_quiet h hb, pagesDue_none h.unpaged]

end Sys2Proof.Machine
end

