-- ==== Sys2Proof/Laws/Records.lean ====
section
/-! SUPPORT. The records agree after every elementary write of movement: the rack map with the bins (R2, R3),
owners with jobs (R41, R53), the items with the tray (R167), fills and counts with the items (R27). Each is an application
of `Closed`, so that every operation of movement keeps it. -/

namespace Sys2Proof.Machine

/-! ### The rack map (R2, R3) -/

/-- The slot state that goes with a bin's state names the bin. -/
theorem BinState.slotFor_bin {b : Nat} {n : BinState} {x q} (h : n.slotFor b = some (x, q)) : q.bin? = some b := by
  cases n <;> simp [BinState.slotFor] at h <;> (try obtain ⟨_, _, rfl⟩ := h) <;> simp_all [SlotState.bin?]

/-- The agreement depends on the states of bins and slots only. -/
theorem rack_iff_congr {s t : State} (hb : ∀ b, (t.bin b).state = (s.bin b).state)
    (hx : ∀ x, (t.slot x).state = (s.slot x).state) (h : s.RackAgrees) : t.RackAgrees := by
  intro b x q; rw [hb, hx]; exact h b x q

/-- A bin's state is written that names no slot, or the slot it named. -/
theorem rack_setBinState {s : State} {b : Nat} {n : BinState}
    (hn : n.slotFor b = none ∨ n.slotFor b = (s.bin b).state.slotFor b) (h : s.RackAgrees) :
    (s.setBinState b n).RackAgrees := by
  intro c x q
  rw [State.bin_setBinState, State.slot_setBinState]
  have h1 := h c x q
  have h0 := h b x (s.slot x).state
  by_cases hc : b = c
  · subst hc
    simp only [if_true]
    rcases hn with hn | hn
    · rw [hn]
      simp only [reduceCtorEq, false_iff, ne_eq, not_false_eq_true, and_true]
      by_cases hq : (s.bin b).state.slotFor b = some (x, (s.slot x).state)
      · simp [hq]; rintro rfl; simp [SlotState.bin?]
      · simp only [hq, if_false]
        rintro ⟨rfl, e⟩
        exact hq (h0.2 ⟨rfl, e⟩)
    · rw [hn]
      rw [if_neg (fun ⟨a, c⟩ => c a)]; exact h1
  · simp only [hc, if_false]
    by_cases hq : (s.bin b).state.slotFor b = some (x, (s.slot x).state) ∧ n.slotFor b ≠ some (x, (s.slot x).state)
    · simp only [hq, ne_eq, not_false_eq_true, and_self, if_true]
      have hb := BinState.slotFor_bin hq.1
      rw [h1]
      constructor
      · rintro ⟨rfl, e⟩; rw [hb] at e; cases e; exact absurd rfl hc
      · rintro ⟨rfl, e⟩; simp [SlotState.bin?] at e
    · simp only [hq, if_false]; exact h1

/-- A slot that takes a bin is written with the state of the bin that names it. -/
theorem rack_place {s : State} {b : Nat} {n : BinState} {x : SlotAddr} {q : SlotState}
    (hq : q.bin? = some b) (hn : n.slotFor b = some (x, q)) (ht : (s.slot x).state.takes b = true)
    (h : s.RackAgrees) : ((s.setSlotState x q).setBinState b n).RackAgrees := by
  intro c y p
  rw [State.bin_setBinState, State.slot_setBinState]
  simp only [State.setSlotState, State.bin_setSlot, State.slot_setSlot]
  have h1 := h c y p
  have h0 := h b y (s.slot y).state
  have hbx := h b x (s.slot x).state
  by_cases hy : x = y
  · subst hy
    simp only [if_true, hn, ne_eq, not_true, and_false, if_false]
    by_cases hc : b = c
    · subst hc; simp only [if_true, hn, Option.some.injEq, Prod.mk.injEq, true_and]
      constructor
      · rintro rfl; exact ⟨rfl, hq⟩
      · rintro ⟨rfl, _⟩; rfl
    · simp only [hc, if_false]
      rw [h1]
      constructor
      · rintro ⟨rfl, e⟩
        simp only [SlotState.takes, e, Option.all_some, decide_eq_true_eq] at ht
        exact absurd ht.symm hc
      · rintro ⟨rfl, e⟩; rw [hq] at e; cases e; exact absurd rfl hc
  · simp only [hy, if_false]
    by_cases hc : b = c
    · subst hc
      rw [if_pos rfl, hn]
      have e1 : (some (x, q) = some (y, p)) ↔ False := by simp [hy]
      rw [e1, false_iff]
      have e2 : some (x, q) ≠ some (y, (s.slot y).state) := by simp [hy]
      simp only [e2, ne_eq, not_false_eq_true, and_true]
      split
      · rintro ⟨rfl, e⟩; simp [SlotState.bin?] at e
      · next hh => rintro ⟨rfl, e⟩; exact hh (h0.2 ⟨rfl, e⟩)
    · simp only [hc, if_false]
      split
      · next hh =>
        have hb := BinState.slotFor_bin hh.1
        rw [h1]
        constructor
        · rintro ⟨rfl, e⟩; rw [hb] at e; cases e; exact absurd rfl hc
        · rintro ⟨rfl, e⟩; simp [SlotState.bin?] at e
      · exact h1

/-- An entry of a written table is the written one or was there before. -/
theorem Tab.mem_put_entry {α : Type} {t : Tab α} {n : Nat} {v : α} {e : Nat × α} (h : e ∈ Tab.put t n v) :
    e = (n, v) ∨ e ∈ t := by
  induction t with
  | nil => simpa [Tab.put] using h
  | cons d t ih =>
    obtain ⟨j, u⟩ := d
    unfold Tab.put at h
    split at h
    · simpa using h
    · split at h
      · rcases List.mem_cons.1 h with h | h <;> simp [h]
      · rcases List.mem_cons.1 h with h | h
        · simp [h]
        · rcases ih h with h | h <;> simp [h]
/-- Reading a bin record after an item of the tray has gone into a fill bin (R173). -/
theorem State.bin_drained (s : State) (acc : Nat) (it : Item) (b : Nat) (k : Fin 8) (p : Pos) (c : Nat) :
    (((s.trayTake acc).shelve acc it b k).sendTray acc p k).bin c =
      if b = c then (s.bin b).add k it.thickness else s.bin c :=
  State.bin_setBin _ _ _ _

@[simp] theorem State.modJob_rsc (s : State) (j f) : (s.modJob j f).rsc = s.rsc := by unfold State.modJob; split <;> rfl
@[simp] theorem State.placeClaim_rsc (s : State) (b c t p) : (s.placeClaim b c t p).1.rsc = s.rsc := by
  unfold State.placeClaim; split <;> rfl
theorem rack_rsc {s t : State} (e : t.rsc = s.rsc) (h : s.RackAgrees) : t.RackAgrees :=
  rack_iff_congr (by intro b; simp [State.bin, e]) (by intro x; simp [State.slot, e]) h

theorem rack_setBin {s : State} {b r} (hr : r.state = (s.bin b).state) (h : s.RackAgrees) : (s.setBin b r).RackAgrees :=
  rack_iff_congr (by intro c; rw [State.bin_setBin]; split <;> simp_all) (by simp) h

/-- Movement keeps the agreement of the rack map with the bins. -/
theorem closed_rack : Closed State.RackAgrees where
  slot x r hr h := rack_iff_congr (by simp) (by intro y; rw [State.slot_setSlot]; split <;> simp_all) h
  bin b r h1 _ _ _ h := rack_setBin h1 h
  binState b n _ hn h := rack_setBinState hn h
  store b x h := by
    unfold State.storeBin; split
    · next ht => exact rack_place rfl rfl ht h
    · exact h
  reserve b x h := by
    unfold State.reserve; dsimp only; split
    · next ht =>
      refine rack_place rfl ?_ ht.2 h
      have := ht.1
      revert this
      cases (State.bin _ b).state <;> simp [BinState.withReserved, BinState.reserved?, BinState.slotFor]
    · exact h
  owner b o _ h := rack_setBin rfl h
  newRecord j r _ _ h := rack_rsc rfl h
  modJob j f _ h := rack_rsc (State.modJob_rsc _ _ _) h
  dropJob j h := by
    unfold State.dropJob; dsimp only
    split
    · split
      · exact rack_setBin rfl (rack_rsc (by rfl) h)
      · exact rack_rsc (by rfl) h
    · exact rack_rsc (by rfl) h
  queue a q _ h := rack_rsc rfl h
  crane a c _ h := rack_rsc rfl h
  port a b _ h := rack_rsc rfl h
  station t r _ _ h := rack_rsc rfl h
  batch n r _ h := rack_rsc rfl h
  post k x y z h := rack_rsc (State.post_rsc _ _ _ _ _) h
  send a o _ h := rack_rsc rfl h
  drainItem b p n h := by
    unfold State.drainItem
    (repeat' split) <;> first
      | exact h
      | refine rack_iff_congr (fun c => ?_) (by intro x; rfl) h
        rw [State.bin_drained]; split <;> simp_all [Bin.add]
  placeClaim b c t p h := rack_rsc (State.placeClaim_rsc _ _ _ _ _) h
  removeClaim c h := rack_rsc rfl h
  firePut b j _ h := rack_rsc rfl h
  fireDrop p h := rack_rsc rfl h
  pages l h := rack_rsc rfl h
  delivered l h := rack_rsc rfl h
  fills l h := rack_rsc rfl h
  noQualifier b h := rack_rsc rfl h
  audit u h := rack_rsc rfl h
  auditEnd h := rack_rsc rfl h

/-! ### Owners (R41, R53) -/

theorem own_congr {s t : State} (hb : ∀ b, (t.bin b).owner = (s.bin b).owner) (hj : t.dsp.jobs = s.dsp.jobs)
    (hf : t.clu.fireJobs = s.clu.fireJobs) (h : s.OwnersAgree) : t.OwnersAgree := by
  constructor
  · intro b j e; rw [hb] at e; have := h.owner b j e; simpa [State.job, hj] using this
  · intro e he; rw [hf] at he; have := h.recorded e he; simpa [State.job, hj] using this

theorem own_setBinState {s : State} {b n} (h : s.OwnersAgree) : (s.setBinState b n).OwnersAgree :=
  own_congr (by intro c; rw [State.bin_setBinState]; split <;> simp_all) (by simp) (by simp) h

theorem own_setOwner {s : State} {b o} (ho : ∀ j, o = .job j → ∃ r, s.job j = some r ∧ r.bin = b)
    (h : s.OwnersAgree) : (s.setOwner b o).OwnersAgree := by
  constructor
  · intro c j e
    simp only [State.setOwner, State.bin_setBin] at e
    split at e
    · next hc => subst hc; exact ho j e
    · exact h.owner c j e
  · exact h.recorded

/-- Movement keeps the agreement of owners with jobs. -/
theorem closed_owners : Closed State.OwnersAgree where
  slot x r _ h := own_congr (by simp) (by rfl) (by rfl) h
  bin b r _ h2 _ _ h := own_congr (by intro c; rw [State.bin_setBin]; split <;> simp_all) (by rfl) (by rfl) h
  binState b n _ _ h := own_setBinState h
  store b x h := by
    unfold State.storeBin; split
    · exact own_setBinState (own_congr (by simp [State.setSlotState]) (by rfl) (by rfl) h)
    · exact h
  reserve b x h := by
    unfold State.reserve; dsimp only; split
    · exact own_setBinState (own_congr (by simp [State.setSlotState]) (by rfl) (by rfl) h)
    · exact h
  owner b o ho h := own_setOwner ho h
  newRecord {s} j r hj _ h := by
    have key : ∀ i r', s.job i = some r' → (s.takeRecord j r).job i = some r' := by
      intro i r' e; simp only [State.takeRecord, State.job, State.setJob, Tab.find_put]
      split
      · next hij => subst hij; rw [hj] at e; cases e
      · exact e
    constructor
    · intro b i e; obtain ⟨r', e1, e2⟩ := h.owner b i e; exact ⟨r', key _ _ e1, e2⟩
    · intro e he; obtain ⟨r', e1, e2⟩ := h.recorded e he; exact ⟨r', key _ _ e1, e2⟩
  modJob {s} j f hf h := by
    unfold State.modJob
    split
    · next q hq =>
      have key : ∀ i r', s.job i = some r' → ∃ r'', (s.setJob j (f q)).job i = some r'' ∧ r''.bin = r'.bin := by
        intro i r' e; simp only [State.job_setJob]
        split
        · next hij => subst hij; rw [hq] at e; cases e; exact ⟨_, rfl, hf q⟩
        · exact ⟨_, e, rfl⟩
      constructor
      · intro b i e
        obtain ⟨r', e1, e2⟩ := h.owner b i e
        obtain ⟨r'', e3, e4⟩ := key _ _ e1
        exact ⟨r'', e3, e4.trans e2⟩
      · intro e he
        obtain ⟨r', e1, e2⟩ := h.recorded e he
        obtain ⟨r'', e3, e4⟩ := key _ _ e1
        exact ⟨r'', e3, e4.trans e2⟩
    · exact h
  dropJob {s} j h := by
    unfold State.dropJob; dsimp only
    have keyf : ∀ t : State, t.dsp.jobs = Tab.del s.dsp.jobs j →
        t.clu.fireJobs = s.clu.fireJobs.filter (fun e => e.2 != j) →
        (∀ b i, (t.bin b).owner = .job i → (s.bin b).owner = .job i ∧ i ≠ j) → t.OwnersAgree := by
      intro t e1 e2 e3
      constructor
      · intro b i e
        obtain ⟨e, ne⟩ := e3 b i e
        obtain ⟨r, h1, h2⟩ := h.owner b i e
        refine ⟨r, ?_, h2⟩
        simp only [State.job, e1, Tab.find_del]; simp [Ne.symm ne]; exact h1
      · intro e he
        rw [e2, List.mem_filter] at he
        obtain ⟨r, h1, h2⟩ := h.recorded e he.1
        have ne : e.2 ≠ j := by simpa using he.2
        refine ⟨r, ?_, h2⟩
        simp only [State.job, e1, Tab.find_del]; simp [Ne.symm ne]; exact h1
    split
    · next q hq =>
      split
      · next ho =>
        refine keyf _ rfl rfl ?_
        intro b i e
        simp only [State.setOwner, State.bin_setBin] at e
        split at e
        · cases e
        · next hb =>
          refine ⟨e, ?_⟩
          rintro rfl
          obtain ⟨r, h1, h2⟩ := h.owner b i e
          rw [hq] at h1; cases h1; exact hb h2
      · next ho =>
        refine keyf _ rfl rfl ?_
        intro b i e
        refine ⟨e, ?_⟩
        rintro rfl
        obtain ⟨r, h1, h2⟩ := h.owner b i e
        rw [hq] at h1; cases h1; subst h2; exact ho e
    · next hq =>
      refine keyf _ rfl rfl ?_
      intro b i e
      refine ⟨e, ?_⟩
      rintro rfl
      obtain ⟨r, h1, h2⟩ := h.owner b i e
      rw [hq] at h1; cases h1
  queue a q _ h := own_congr (by intro b; rfl) (by rfl) (by rfl) h
  crane a c _ h := own_congr (by intro b; rfl) (by rfl) (by rfl) h
  port a b _ h := own_congr (by intro b; rfl) (by rfl) (by rfl) h
  station t r _ _ h := own_congr (by intro b; rfl) (by rfl) (by rfl) h
  batch n r _ h := own_congr (by intro b; rfl) (by rfl) (by rfl) h
  post k x y z h := own_congr (by intro b; simp [State.bin]) (by simp) (by simp) h
  send a o _ h := own_congr (by intro b; rfl) (by rfl) (by rfl) h
  drainItem b p n h := by
    unfold State.drainItem
    (repeat' split) <;> first
      | exact h
      | refine own_congr (fun c => ?_) (by rfl) (by rfl) h
        rw [State.bin_drained]; split <;> simp_all [Bin.add]
  placeClaim b c t p h := by
    unfold State.placeClaim; split
    · exact own_congr (by intro b; rfl) (by rfl) (by rfl) h
    · exact h
  removeClaim c h := own_congr (by intro b; rfl) (by rfl) (by rfl) h
  firePut b j hj h := by
    constructor
    · exact h.owner
    · intro e he
      rcases Tab.mem_put_entry he with rfl | he
      · exact hj
      · exact h.recorded e he
  fireDrop p h := ⟨h.owner, fun e he => h.recorded e (List.mem_filter.1 he).1⟩
  pages l h := own_congr (by intro b; rfl) (by rfl) (by rfl) h
  delivered l h := own_congr (by intro b; rfl) (by rfl) (by rfl) h
  fills l h := own_congr (by intro b; rfl) (by rfl) (by rfl) h
  noQualifier b h := own_congr (by intro b; rfl) (by rfl) (by rfl) h
  audit u h := own_congr (by intro b; rfl) (by rfl) (by rfl) h
  auditEnd h := own_congr (by intro b; rfl) (by rfl) (by rfl) h


/-! ### The tray (R167) -/

theorem tray_congr {s t : State} (ht : t.rsc.tray = s.rsc.tray) (hi : t.rsc.items = s.rsc.items)
    (h : s.TrayAgrees) : t.TrayAgrees := by
  intro acc; have := h acc; simpa [State.item, ht, hi] using this

theorem tray_shelve {s : State} {b : Nat} {acc : Nat} {it : Item} {k : Fin 8} {p : Pos} (h : s.TrayAgrees) :
    (((s.trayTake acc).shelve acc it b k).sendTray acc p k).TrayAgrees := by
  intro c
  show c ∈ (s.rsc.tray.filter (· != acc)) ↔ ∃ i, Tab.find (Tab.put s.rsc.items acc _) c = some i ∧ _
  rw [Tab.find_put, List.mem_filter, h c]
  by_cases hc : acc = c
  · subst hc; simp
  · have : c ≠ acc := Ne.symm hc
    simp [hc, this, State.item]

/-- Movement keeps the agreement of the items with the tray. -/
theorem closed_tray : Closed State.TrayAgrees where
  slot x r _ h := tray_congr (by rfl) (by rfl) h
  bin b r _ _ _ _ h := tray_congr (by rfl) (by rfl) h
  binState b n _ _ h := tray_congr (by simp) (by simp) h
  store b x h := by
    unfold State.storeBin
    split <;> first
      | exact h
      | exact tray_congr (by simp [State.setSlotState]) (by simp [State.setSlotState]) h
  reserve b x h := by
    unfold State.reserve
    dsimp only
    split <;> first
      | exact h
      | exact tray_congr (by simp [State.setSlotState]) (by simp [State.setSlotState]) h
  owner b o _ h := tray_congr (by rfl) (by rfl) h
  newRecord j r _ _ h := tray_congr (by rfl) (by rfl) h
  modJob j f _ h := tray_congr (by rw [State.modJob_rsc]) (by rw [State.modJob_rsc]) h
  dropJob j h := by
    unfold State.dropJob; dsimp only; (repeat' split) <;> exact tray_congr (by rfl) (by rfl) h
  queue a q _ h := tray_congr (by rfl) (by rfl) h
  crane a c _ h := tray_congr (by rfl) (by rfl) h
  port a b _ h := tray_congr (by rfl) (by rfl) h
  station t r _ _ h := tray_congr (by rfl) (by rfl) h
  batch n r _ h := tray_congr (by rfl) (by rfl) h
  post k x y z h := tray_congr (by rw [State.post_rsc]) (by rw [State.post_rsc]) h
  send a o _ h := tray_congr (by rfl) (by rfl) h
  drainItem b p n h := by
    unfold State.drainItem; (repeat' split) <;> first | exact h | exact tray_shelve h
  placeClaim b c t p h := tray_congr (by rw [State.placeClaim_rsc]) (by rw [State.placeClaim_rsc]) h
  removeClaim c h := tray_congr (by rfl) (by rfl) h
  firePut b j _ h := tray_congr (by rfl) (by rfl) h
  fireDrop p h := tray_congr (by rfl) (by rfl) h
  pages l h := tray_congr (by rfl) (by rfl) h
  delivered l h := tray_congr (by rfl) (by rfl) h
  fills l h := tray_congr (by rfl) (by rfl) h
  noQualifier b h := tray_congr (by rfl) (by rfl) h
  audit u h := tray_congr (by rfl) (by rfl) h
  auditEnd h := tray_congr (by rfl) (by rfl) h

/-! ### Fills and counts (R27) -/

/-- The table lists no number below its first. -/
theorem Tab.find_below {α : Type} {t : Tab α} {n : Nat} (h : ∀ e ∈ t, n < e.1) : Tab.find t n = none := by
  induction t with
  | nil => rfl
  | cons d t ih =>
    obtain ⟨k, u⟩ := d
    have := h (k, u) (by simp)
    rw [Tab.find_cons, if_neg (by simp at this; omega)]
    exact ih (fun e he => h e (by simp [he]))

/-- A record that is written replaces the weight of the one that was there. -/
theorem Tab.total_put {α : Type} (f : α → Nat) {t : Tab α} (h : Tab.wf t) (n : Nat) (v : α) :
    Tab.total f (Tab.put t n v) + (Tab.find t n).elim 0 f = Tab.total f t + f v := by
  induction t with
  | nil => simp [Tab.put, Tab.total]
  | cons d t ih =>
    obtain ⟨k, u⟩ := d
    have hw := List.pairwise_cons.1 h
    have hk : ∀ e ∈ t, k < e.1 := fun e he => hw.1 e.1 (List.mem_map_of_mem he)
    unfold Tab.put
    split
    · next hn =>
      rw [Tab.find_below (n := n) (by
        intro e he
        rcases List.mem_cons.1 he with rfl | he
        · exact hn
        · exact hn.trans (hk e he))]
      simp [Tab.total]; omega
    · split
      · next hn => subst hn; simp [Tab.find_cons, Tab.total]; omega
      · next hn =>
        have := ih hw.2
        rw [Tab.find_cons, if_neg (Ne.symm hn)]
        simp only [Tab.total, List.map_cons, List.sum_cons] at this ⊢
        omega

/-- A record that is removed takes its weight with it. -/
theorem Tab.total_del {α : Type} (f : α → Nat) {t : Tab α} (h : Tab.wf t) (n : Nat) :
    Tab.total f (Tab.del t n) + (Tab.find t n).elim 0 f = Tab.total f t := by
  induction t with
  | nil => rfl
  | cons d t ih =>
    obtain ⟨k, u⟩ := d
    have hw := List.pairwise_cons.1 h
    have := ih hw.2
    rw [Tab.find_cons]
    by_cases hn : k = n
    · subst hn
      have hk : ∀ e ∈ t, k < e.1 := fun e he => hw.1 e.1 (List.mem_map_of_mem he)
      rw [Tab.find_below hk] at this
      simp only [Tab.del, Tab.total, if_true] at this ⊢
      simp at this ⊢; omega
    · simp only [Tab.del, Tab.total, hn, if_false] at this ⊢
      simp [hn] at this ⊢; omega

/-- The agreement of fills and counts, over items in rising order. -/
structure State.FillsStand (s : State) : Prop where
  items : Tab.wf s.rsc.items
  agree : s.FillsAgree

/-- The agreement depends on the items and on the fills, the counts and the use of the bins. -/
theorem fills_congr {s t : State} (hi : t.rsc.items = s.rsc.items) (hb : ∀ b, (t.bin b).fills = (s.bin b).fills ∧
    (t.bin b).count = (s.bin b).count ∧ ((t.bin b).state = .unused → (s.bin b).state = .unused))
    (h : s.FillsStand) : t.FillsStand := by
  obtain ⟨w, ⟨h1, h2, h3, h4⟩⟩ := h
  refine ⟨hi ▸ w, ⟨fun b k => ?_, fun b k => ?_, fun b => ?_, fun acc it b k e1 e2 e3 => ?_⟩⟩
  · rw [show (t.bin b).fills[k] = (s.bin b).fills[k] by rw [(hb b).1]]; exact h1 b k
  · rw [show (t.bin b).fills[k] = (s.bin b).fills[k] by rw [(hb b).1], hi]; exact h2 b k
  · rw [(hb b).2.1, hi]; exact h3 b
  · simp only [State.item, hi] at e1; exact h4 acc it b k e1 e2 ((hb b).2.2 e3)

theorem fills_tables {s t : State} (hi : t.rsc.items = s.rsc.items) (hb : t.rsc.bins = s.rsc.bins)
    (h : s.FillsStand) : t.FillsStand := fills_congr hi (by intro b; simp [State.bin, hb]) h
theorem fills_rsc {s t : State} (e : t.rsc = s.rsc) (h : s.FillsStand) : t.FillsStand :=
  fills_tables (by rw [e]) (by rw [e]) h
@[simp] theorem ItemState.shelvedIn_shelved (b : Nat) (k : Fin 8) :
    (ItemState.shelved b k).shelvedIn = some (b, k) := rfl
@[simp] theorem ItemState.shelvedIn_missing : ItemState.missing.shelvedIn = none := rfl

/-- A bin keeps its fills and its count, and stays in use, when another part of its record is written. -/
theorem fills_setBin {s : State} {b r} (h1 : r.fills = (s.bin b).fills) (h2 : r.count = (s.bin b).count)
    (h3 : r.state = .unused → (s.bin b).state = .unused) (h : s.FillsStand) : (s.setBin b r).FillsStand := by
  refine fills_congr (by rfl) (fun c => ?_) h
  rw [State.bin_setBin]
  split
  · next e => subst e; exact ⟨h1, h2, h3⟩
  · exact ⟨rfl, rfl, id⟩

theorem fills_setBinState {s : State} {b n} (hn : n ≠ .unused) (h : s.FillsStand) : (s.setBinState b n).FillsStand := by
  refine fills_congr (by simp) (fun c => ?_) h
  rw [State.bin_setBinState]
  split
  · next e => subst e; exact ⟨rfl, rfl, fun e => absurd e hn⟩
  · exact ⟨rfl, rfl, id⟩

/-- An item changes its state and with it the compartment it fills: the two bins' records change by its thickness
and by one (R27). -/
theorem fills_moved {s t : State} {acc : Nat} {it new : Item} (hi : s.item acc = some it)
    (ht : t.rsc.items = Tab.put s.rsc.items acc new)
    (hf : ∀ b (k : Fin 8), (t.bin b).fills[k] + it.fillOf b k = (s.bin b).fills[k] + new.fillOf b k)
    (hc : ∀ b, (t.bin b).count + it.countOf b = (s.bin b).count + new.countOf b)
    (hw : ∀ b (k : Fin 8), (t.bin b).fills[k] ≤ 40)
    (hu : ∀ b, (t.bin b).state = .unused → (s.bin b).state = .unused ∧ ∀ k, new.state.shelvedIn ≠ some (b, k))
    (h : s.FillsStand) : t.FillsStand := by
  obtain ⟨w, ⟨h1, h2, h3, h4⟩⟩ := h
  have key : ∀ f : Item → Nat, Tab.total f t.rsc.items + f it = Tab.total f s.rsc.items + f new := by
    intro f
    have := Tab.total_put f w acc new
    rw [show Tab.find s.rsc.items acc = some it from hi, ← ht] at this
    exact this
  refine ⟨ht ▸ Tab.wf_put w _ _, ⟨hw, fun b k => ?_, fun b => ?_, fun c r b k e1 e2 e3 => ?_⟩⟩
  · have := key (Item.fillOf b k); have := hf b k; have := h2 b k; omega
  · have := key (Item.countOf b); have := hc b; have := h3 b; omega
  · simp only [State.item, ht, Tab.find_put] at e1
    split at e1
    · cases e1; exact (hu b e3).2 k e2
    · exact h4 c r b k e1 e2 (hu b e3).1

/-- An item whose state names no compartment before or after changes no fill (R27). -/
theorem fills_setItem {s : State} {acc : Nat} {it new : Item} (hi : s.item acc = some it)
    (h1 : new.thickness = it.thickness) (h2 : new.state.shelvedIn = it.state.shelvedIn) (h : s.FillsStand) :
    (s.setItem acc new).FillsStand := by
  refine fills_moved hi rfl (fun b k => ?_) (fun b => ?_) h.agree.within (fun b e => ⟨e, fun k e2 => ?_⟩) h
  · simp only [Item.fillOf, h1, h2]; rfl
  · simp only [Item.countOf, h2]; rfl
  · exact h.agree.used acc it b k hi (h2 ▸ e2) e

theorem Bin.fills_add (r : Bin) (k i : Fin 8) (t : Nat) :
    (r.add k t).fills[i] = r.fills[i] + if k = i then t else 0 := by
  simp only [Bin.add, Fin.getElem_fin, Vector.getElem_set]
  by_cases e : k = i
  · subst e; simp
  · have : (k : Nat) ≠ i := fun h => e (Fin.ext h)
    simp [e, this]

theorem Bin.fills_take (r : Bin) (k i : Fin 8) (t : Nat) :
    (r.take k t).fills[i] = r.fills[i] - if k = i then t else 0 := by
  simp only [Bin.take, Fin.getElem_fin, Vector.getElem_set]
  by_cases e : k = i
  · subst e; simp
  · have : (k : Nat) ≠ i := fun h => e (Fin.ext h)
    simp [e, this]

/-- An item that is SHELVED in no compartment goes into one of a bin in use that has room (R27). -/
theorem fills_shelve {s : State} {acc : Nat} {it : Item} {b : Nat} {k : Fin 8} (hi : s.item acc = some it)
    (hn : it.state.shelvedIn = none) (hb : (s.bin b).state ≠ .unused) (hr : (s.bin b).hasRoom it.thickness k = true)
    (h : s.FillsStand) : (s.shelve acc it b k).FillsStand := by
  have hr' : (s.bin b).fills[k] + it.thickness ≤ 40 := of_decide_eq_true hr
  have hbin : ∀ c, (s.shelve acc it b k).bin c = if b = c then (s.bin b).add k it.thickness else s.bin c :=
    fun c => State.bin_setBin _ _ _ _
  have hfill : ∀ c (i : Fin 8), ((s.shelve acc it b k).bin c).fills[i] =
      (s.bin c).fills[i] + if b = c ∧ k = i then it.thickness else 0 := by
    intro c i
    rw [hbin]
    split
    · next e => subst e; rw [Bin.fills_add]; simp
    · next e => simp [e]
  refine fills_moved hi rfl (fun c i => ?_) (fun c => ?_) (fun c i => ?_) (fun c e => ?_) h
  · rw [hfill]
    simp [Item.fillOf, hn]
  · rw [hbin]
    split
    · next e => subst e; simp [Item.countOf, hn, Bin.add]
    · next e => simp [Item.countOf, hn, e]
  · rw [hfill]
    split
    · next e => rw [← e.1, ← e.2]; exact hr'
    · exact h.agree.within c i
  · rw [hbin] at e
    split at e
    · exact absurd e hb
    · next e2 => exact ⟨e, fun i => by simp [e2]⟩

/-- An item leaves the compartment in which it is SHELVED, if it is in one (R27). -/
theorem fills_unshelve {s : State} {acc : Nat} {it : Item} {st : ItemState} (hi : s.item acc = some it)
    (hs : st.shelvedIn = none) (h : s.FillsStand) : (s.unshelve acc it st).FillsStand := by
  unfold State.unshelve
  split
  · next b k hk =>
    have hle : it.thickness ≤ (s.bin b).fills[k] ∧ 0 < (s.bin b).count := by
      have e1 := Tab.total_put (Item.fillOf b k) h.items acc { it with state := .missing }
      have e2 := Tab.total_put (Item.countOf b) h.items acc { it with state := .missing }
      rw [show Tab.find s.rsc.items acc = some it from hi] at e1 e2
      simp [Item.fillOf, Item.countOf, hk, ← h.agree.fills b k, ← h.agree.count b] at e1 e2
      have f1 := h.agree.fills b k
      have f2 := h.agree.count b
      simp only [Fin.getElem_fin] at f1 e1 ⊢
      omega
    have hbin : ∀ c, ((s.setItem acc { it with state := st }).setBin b ((s.bin b).take k it.thickness)).bin c =
        if b = c then (s.bin b).take k it.thickness else s.bin c := fun c => State.bin_setBin _ _ _ _
    have hfill : ∀ c (i : Fin 8),
        (((s.setItem acc { it with state := st }).setBin b ((s.bin b).take k it.thickness)).bin c).fills[i] =
          (s.bin c).fills[i] - if b = c ∧ k = i then it.thickness else 0 := by
      intro c i
      rw [hbin]
      split
      · next e => subst e; rw [Bin.fills_take]; simp
      · next e => simp [e]
    refine fills_moved hi rfl (fun c i => ?_) (fun c => ?_) (fun c i => ?_) (fun c e => ?_) h
    · rw [hfill]
      simp only [Item.fillOf, hk, hs, Option.some.injEq, Prod.mk.injEq, reduceCtorEq, if_false]
      split
      · next e => have := hle.1; rw [e.1, e.2] at this; omega
      · omega
    · rw [hbin]
      have := hle.2
      split
      · next e => subst e; simp [Item.countOf, hk, hs, Bin.take]; omega
      · next e => simp [Item.countOf, hk, hs, e]
    · rw [hfill]; exact (Nat.sub_le _ _).trans (h.agree.within c i)
    · rw [hbin] at e
      refine ⟨?_, by simp [hs]⟩
      split at e
      · next e2 => subst e2; exact e
      · exact e
  · next hk => exact fills_setItem hi rfl (by rw [hk]; exact hs) h

/-- Movement keeps fills and counts in agreement with the items. -/
theorem closed_fills : Closed State.FillsStand where
  slot x r _ h := fills_tables (by rfl) (by rfl) h
  bin b r h1 _ h3 h4 h := fills_setBin h3 h4 (by rw [h1]; exact id) h
  binState b n hn _ h := fills_setBinState hn h
  store b x h := by
    unfold State.storeBin
    split <;> first
      | exact h
      | exact fills_setBinState (by simp) (fills_tables (by rfl) (by rfl) h)
  reserve {s} b x h := by
    unfold State.reserve
    dsimp only
    split
    · next ht =>
      refine fills_setBinState ?_ (fills_tables (by rfl) (by rfl) h)
      have := ht.1
      revert this
      cases (State.bin _ b).state <;> simp [BinState.withReserved, BinState.reserved?]
    · exact h
  owner b o _ h := fills_setBin rfl rfl id h
  newRecord j r _ _ h := fills_rsc (by rfl) h
  modJob j f _ h := fills_rsc (State.modJob_rsc _ _ _) h
  dropJob {s} j h := by
    have h1 : ∀ f : Tab Nat, State.FillsStand { s.delJob j with clu.fireJobs := f } := fun f => fills_rsc (by rfl) h
    unfold State.dropJob
    dsimp only
    (repeat' split) <;> first | exact h1 _ | exact fills_setBin rfl rfl id (h1 _)
  queue a q _ h := fills_rsc (by rfl) h
  crane a c _ h := fills_rsc (by rfl) h
  port a b _ h := fills_rsc (by rfl) h
  station t r _ _ h := fills_rsc (by rfl) h
  batch n r _ h := fills_rsc (by rfl) h
  post k x y z h := fills_rsc (State.post_rsc _ _ _ _ _) h
  send a o _ h := fills_rsc (by rfl) h
  drainItem {s} b p n h := by
    unfold State.drainItem
    split
    · next it hi =>
      split
      · exact h
      · next hc =>
        split
        · next k hk =>
          simp only [not_or, not_not] at hc
          have hb : (s.bin b).state ≠ .unused := by
            intro e; have := hc.2.1; simp [State.presentedAt, e] at this
          exact fills_rsc (s := (s.trayTake n).shelve n it b k) (by rfl)
            (fills_shelve (s := s.trayTake n) hi (by rw [hc.1]; rfl) hb (List.find?_some hk)
              (fills_tables (by rfl) (by rfl) h))
        · exact h
    · exact h
  placeClaim b c t p h := fills_rsc (State.placeClaim_rsc _ _ _ _ _) h
  removeClaim c h := fills_rsc (by rfl) h
  firePut b j _ h := fills_rsc (by rfl) h
  fireDrop p h := fills_rsc (by rfl) h
  pages l h := fills_rsc (by rfl) h
  delivered l h := fills_rsc (by rfl) h
  fills l h := fills_rsc (by rfl) h
  noQualifier b h := fills_rsc (by rfl) h
  audit u h := fills_rsc (by rfl) h
  auditEnd h := fills_rsc (by rfl) h

end Sys2Proof.Machine
end

