-- ==== Sys2Proof/Laws/Limits.lean ====
section
/-! SUPPORT. The queues, lists and numbered tables stay within their limits after every elementary write of movement
(R45, R56, R58, R81, R108, R118, R167, R195): an application of `Closed`, so that every operation of movement keeps
them. -/

namespace Sys2Proof.Machine

/-- A number that a table finds is the number of an entry. -/
theorem Tab.mem_of_find {α : Type} {t : Tab α} {n : Nat} {v : α} (h : Tab.find t n = some v) : (n, v) ∈ t := by
  induction t with
  | nil => cases h
  | cons d t ih =>
    obtain ⟨k, u⟩ := d
    rw [Tab.find_cons] at h
    split at h
    · next e => subst e; cases h; simp
    · exact List.mem_cons_of_mem _ (ih h)

/-- What is within its limits in a state, in the parts that movement writes. -/
theorem bounded_congr {s t : State} (hv : t.svp = s.svp) (hc : t.clu.claims = s.clu.claims)
    (ht : t.rsc.tray.length ≤ s.rsc.tray.length) (hj : ∀ e ∈ t.dsp.jobs, e.1 < 128 ∨ e ∈ s.dsp.jobs)
    (hb : ∀ e ∈ t.stu.batches, e.1 < 8 ∨ e ∈ s.stu.batches)
    (hq : ∀ a, (t.queue a).used ≤ (s.queue a).used ∨ (t.queue a).used ≤ 32)
    (hl : ∀ u, (t.station u).lane.length ≤ (s.station u).lane.length ∨ (t.station u).lane.length ≤ 4)
    (hp : ∀ a, (t.crane a).buffer.length ≤ (s.crane a).buffer.length ∨ (t.crane a).buffer.length ≤ 2)
    (h : s.Bounded) : t.Bounded where
  notices := by rw [hv]; exact h.notices
  overrun := by rw [hv]; exact h.overrun
  claims := by rw [hc]; exact h.claims
  tray := ht.trans h.tray
  keptStation := by rw [hv]; exact h.keptStation
  keptPort := by rw [hv]; exact h.keptPort
  jobs e he := (hj e he).elim id (h.jobs e)
  batches e he := (hb e he).elim id (h.batches e)
  queues a := (hq a).elim (fun e => e.trans (h.queues a)) id
  lanes u := (hl u).elim (fun e => e.trans (h.lanes u)) id
  buffers a := (hp a).elim (fun e => e.trans (h.buffers a)) id

/-- A write of records that have no limit. -/
theorem bounded_same {s t : State} (hv : t.svp = s.svp) (hc : t.clu.claims = s.clu.claims)
    (ht : t.rsc.tray.length ≤ s.rsc.tray.length) (hd : t.dsp = s.dsp) (hs : t.stu = s.stu)
    (hp : t.cranes = s.cranes) (h : s.Bounded) : t.Bounded :=
  bounded_congr hv hc ht (fun _ he => .inr (hd ▸ he)) (fun _ he => .inr (hs ▸ he))
    (fun a => .inl (by simp [State.queue, hd])) (fun u => .inl (by simp [State.station, hs]))
    (fun a => .inl (by simp [State.crane, hp])) h

theorem bounded_eq {s t : State} (hv : t.svp = s.svp) (hc : t.clu.claims = s.clu.claims)
    (ht : t.rsc.tray = s.rsc.tray) (hd : t.dsp = s.dsp) (hs : t.stu = s.stu) (hp : t.cranes = s.cranes)
    (h : s.Bounded) : t.Bounded := bounded_same hv hc (by rw [ht]) hd hs hp h

/-- A notice joins the queue while it has room, or sets OVERRUN over a full one (R195). -/
theorem bounded_post {s : State} {k x y z} (h : s.Bounded) : (s.post k x y z).Bounded := by
  unfold State.post
  split
  · next hn =>
    exact { h with
      notices := by simp only [List.length_append, List.length_singleton, Config.notices] at hn ⊢; omega
      overrun := by simp }
  · next hn =>
    exact { h with
      overrun := by
        intro _ e
        apply hn
        simp only at e
        simp [e, Config.notices] }

theorem bounded_setBinState {s : State} {b n} (h : s.Bounded) : (s.setBinState b n).Bounded :=
  bounded_same (by simp) (by simp) (by simp) (by simp) (by simp) (by simp) h

/-- Movement keeps the queues, lists and tables within their limits. -/
theorem closed_bounded : Closed State.Bounded where
  slot x r _ h := bounded_eq (by rfl) (by rfl) (by rfl) (by rfl) (by rfl) (by rfl) h
  bin b r _ _ _ _ h := bounded_eq (by rfl) (by rfl) (by rfl) (by rfl) (by rfl) (by rfl) h
  binState b n _ _ h := bounded_setBinState h
  store {s} b x h := by
    unfold State.storeBin
    split
    · exact bounded_setBinState (bounded_same (s := s) rfl rfl (le_refl _) rfl rfl rfl h)
    · exact h
  reserve {s} b x h := by
    unfold State.reserve
    dsimp only
    split
    · exact bounded_setBinState (bounded_same (s := s) rfl rfl (le_refl _) rfl rfl rfl h)
    · exact h
  owner b o _ h := bounded_eq (by rfl) (by rfl) (by rfl) (by rfl) (by rfl) (by rfl) h
  newRecord {s} j r _ hj h :=
    bounded_congr (s := s) rfl rfl (le_refl _)
      (fun e he => (Tab.mem_put_entry he).elim (fun e1 => .inl (by rw [e1]; exact hj)) .inr) (fun _ he => .inr he)
      (fun _ => .inl (le_refl _)) (fun _ => .inl (le_refl _)) (fun _ => .inl (le_refl _)) h
  modJob {s} j f _ h := by
    unfold State.modJob
    split
    · next r hr =>
      have hj : j < 128 := h.jobs _ (Tab.mem_of_find hr)
      exact bounded_congr (s := s) rfl rfl (le_refl _)
        (fun e he => (Tab.mem_put_entry he).elim (fun e1 => .inl (by rw [e1]; exact hj)) .inr) (fun _ he => .inr he)
        (fun _ => .inl (le_refl _)) (fun _ => .inl (le_refl _)) (fun _ => .inl (le_refl _)) h
    · exact h
  dropJob {s} j h := by
    have h1 : ∀ t : State, t.svp = s.svp → t.clu.claims = s.clu.claims → t.rsc.tray = s.rsc.tray →
        t.dsp = { s.dsp with jobs := Tab.del s.dsp.jobs j } → t.stu = s.stu → t.cranes = s.cranes → t.Bounded := by
      intro t e1 e2 e3 e4 e5 e6
      refine bounded_congr e1 e2 (by rw [e3]) (fun e he => .inr ?_) (fun _ he => .inr (e5 ▸ he))
        (fun a => .inl (by simp [State.queue, e4])) (fun u => .inl (by simp [State.station, e5]))
        (fun a => .inl (by simp [State.crane, e6])) h
      rw [e4] at he
      exact (List.mem_filter.1 he).1
    unfold State.dropJob
    dsimp only
    (repeat' split) <;> exact h1 _ rfl rfl rfl rfl rfl rfl
  queue {s} a q hq h := by
    refine bounded_congr (s := s) rfl rfl (le_refl _) (fun _ he => .inr he) (fun _ he => .inr he) (fun c => ?_)
      (fun _ => .inl (le_refl _)) (fun _ => .inl (le_refl _)) h
    rw [State.queue_setQueue]
    split
    · next e => subst e; exact hq
    · exact .inl (le_refl _)
  crane {s} a r hr h := by
    refine bounded_congr (s := s) rfl rfl (le_refl _) (fun _ he => .inr he) (fun _ he => .inr he)
      (fun _ => .inl (le_refl _)) (fun _ => .inl (le_refl _)) (fun c => .inl ?_) h
    rw [State.crane_setCrane]
    split
    · next e => subst e; exact hr
    · exact le_refl _
  port {s} a b hb h := by
    refine bounded_congr (s := s) rfl rfl (le_refl _) (fun _ he => .inr he) (fun _ he => .inr he)
      (fun _ => .inl (le_refl _)) (fun _ => .inl (le_refl _)) (fun c => ?_) h
    rw [State.bufferJoin, State.crane_setCrane]
    split
    · right; simp only [List.length_append, List.length_singleton]; omega
    · exact .inl (le_refl _)
  station {s} u r _ hl h := by
    refine bounded_congr (s := s) rfl rfl (le_refl _) (fun _ he => .inr he) (fun _ he => .inr he)
      (fun _ => .inl (le_refl _)) (fun v => ?_) (fun _ => .inl (le_refl _)) h
    rw [State.station_setStation]
    split
    · next e => subst e; exact hl
    · exact .inl (le_refl _)
  batch {s} n r hn h := by
    have hn' : n < 8 := by
      rcases hn with hn | hn
      · exact hn
      · obtain ⟨q, hq⟩ := Option.ne_none_iff_exists'.1 hn
        exact h.batches _ (Tab.mem_of_find hq)
    exact bounded_congr (s := s) rfl rfl (le_refl _) (fun _ he => .inr he)
      (fun e he => (Tab.mem_put_entry he).elim (fun e1 => .inl (by rw [e1]; exact hn')) .inr)
      (fun _ => .inl (le_refl _)) (fun _ => .inl (le_refl _)) (fun _ => .inl (le_refl _)) h
  post k x y z h := bounded_post h
  send a o _ h := bounded_eq (by rfl) (by rfl) (by rfl) (by rfl) (by rfl) (by rfl) h
  drainItem {s} b p n h := by
    unfold State.drainItem
    (repeat' split) <;> first
      | exact h
      | exact bounded_same (s := s) rfl rfl (List.length_filter_le _ _) rfl rfl rfl h
  placeClaim {s} b c u p h := by
    unfold State.placeClaim
    split
    · next hc =>
      exact { h with
        claims := by simp only [List.length_append, List.length_singleton, Config.claims] at hc ⊢; omega }
    · exact h
  removeClaim {s} c h := { h with claims := (List.length_erase_le ..).trans h.claims }
  firePut b j _ h := bounded_eq (by rfl) (by rfl) (by rfl) (by rfl) (by rfl) (by rfl) h
  fireDrop p h := bounded_eq (by rfl) (by rfl) (by rfl) (by rfl) (by rfl) (by rfl) h
  pages l h := bounded_eq (by rfl) (by rfl) (by rfl) (by rfl) (by rfl) (by rfl) h
  delivered l h := bounded_eq (by rfl) (by rfl) (by rfl) (by rfl) (by rfl) (by rfl) h
  fills l h := bounded_eq (by rfl) (by rfl) (by rfl) (by rfl) (by rfl) (by rfl) h
  noQualifier b h := bounded_eq (by rfl) (by rfl) (by rfl) (by rfl) (by rfl) (by rfl) h
  audit u h := { h with jobs := h.jobs }
  auditEnd h := { h with jobs := h.jobs }

end Sys2Proof.Machine
end

