-- ==== Sys2Proof/Tests/Slice0.lean ====
section
/-! SUPPORT. Tests. First, an ill-formed command for each check of WellFormed, which the check refuses. Then worked
examples of the manual, one step each, with the manual's own numbers. Then a witness for every statement that has
hypotheses: a concrete state and operands that meet all of them together, for each clause. -/

namespace Sys2Proof.Tests

open Sys2Proof Sys2Proof.Machine

-- One theorem after another: tests evaluated side by side each hold a thread of their own.
set_option Elab.async false

/-! ### Small states -/

/-- A request's header. -/
def rq : Hdr := ⟨1, true⟩

/-- The wing at work: mounted, held by the library, every zone NORMAL, every crane still DOWN. -/
def wing : State := { State.reset with
  outputs := []
  svp := { State.reset.svp with mountState := .mounted, longOp := none }
  rsc := { State.reset.rsc with formatOk := true }
  fiu := { State.reset.fiu with
    libraryClaim := true
    zones := Vector.replicate 5 { Zone.reset with state := .normal, shutterCmd := .open } } }

/-- A bin record in a state. -/
def binAs (st : BinState) (o : Owner) : Bin := { Bin.unused with state := st, owner := o }

/-- An item of class GENERAL in a state, with its queue. -/
def itemAs (st : ItemState) (q : List Nat) : Item := { thickness := 40, cls := .general, state := st, queue := q }

/-- The first slot of the rack, the last one, and the first of the third aisle. -/
def x0 : SlotAddr := ⟨0, .left, 0, 0⟩
def xl : SlotAddr := ⟨3, .right, 23, 95⟩
def x2 : SlotAddr := ⟨2, .left, 0, 0⟩
def raw0 : RawSlot := ⟨0, 0, 0, 0⟩
def rawl : RawSlot := ⟨3, 1, 23, 95⟩

/-- The wing with a bin STORED in a slot. -/
def storing (b : Nat) (x : SlotAddr) (o : Owner) : State :=
  (wing.setBin b (binAs (.stored x) o)).setSlot x { wing.slot x with state := .occupied b }

/-- A state with a bin PRESENTED at a position. -/
def showing (s : State) (b : Nat) (t : StationNo) (p : Pos) : State :=
  (s.setBin b (binAs (.presented t p) (.station t))).setPosition t p (s.freshPosition t b false)

/-- A state with a crane's state changed. -/
def craned (s : State) (a : Aisle) (f : Crane → Crane) : State := s.setCrane a (f (s.crane a))

/-- A state at another tick. -/
def at32 (s : State) (n : Nat) : State := { s with svp.tick := BitVec.ofNat 32 n }

/-- A FETCH of a bin to a station. -/
def fetchOf (b : Nat) (a : Option Aisle) (src : JobSource) (t : StationNo) (active : Bool) : Job :=
  { kind := .fetch, aisle := a, bin := b, source := src, dest := .station t, priority := 3, enqueued := 0,
    origin := .single, active := active }

/-- An outstanding order for a job. -/
def orderOf (k : OrderKind) (j : Option Nat) (x : Option SlotAddr) (picked : Bool) : Order :=
  { kind := k, tag := 255, job := j, slot := x, deadline := 0, loaded := false, picked := picked,
    accepted := false }

/-- A borrower of class 0. -/
def reader (loans holds : Nat) : Borrower := { cls := 0, blocked := false, loans := loans, holds := holds }

theorem served_of {s : State} (h : s.svp.resp = none ∧ s.svp.mountState = .mounted) : Served rq s :=
  ⟨h.1, by decide, rfl, h.2⟩

theorem quiet_of {s : State} {b : Nat} (h : s.oldestClaim b = none ∧ (∀ g ∈ s.circ.pages, g.bin ≠ b) ∧
    s.fillOf b = none ∧ s.riu.noQualifier = false) : s.Quiet b := ⟨h.1, h.2.1, h.2.2.1, h.2.2.2⟩

theorem waits_of {s : State} (h : s.clu.claims = [] ∧ (∀ a, (s.queue a).deferred = []) ∧ s.stu.batches = [] ∧
    s.circ.pages = [] ∧ s.riu.fills = [] ∧ s.riu.noQualifier = false ∧ s.dsp.audit = none) : s.NothingWaits :=
  ⟨h.1, h.2.1, h.2.2.1, h.2.2.2.1, h.2.2.2.2.1, h.2.2.2.2.2.1, h.2.2.2.2.2.2⟩

theorem none_of {s : State} (h : ∀ a, (s.crane a).available = false) : s.NoneAvailable := h

/-! ### Well-formedness -/

theorem test_wf_refuses_tag_zero : (Instr.status ⟨0, true⟩).wf = false := by decide
theorem test_wf_refuses_a_bin_of_three_bytes : (Instr.retireBin rq 65536).wf = false := by decide
theorem test_wf_refuses_a_class_of_two_bytes : (Instr.addBin rq 0 256 0 (.slot raw0)).wf = false := by decide
theorem test_wf_refuses_a_slot_part_of_two_bytes : (Instr.slotInfo rq ⟨0, 0, 256, 0⟩).wf = false := by decide
theorem test_wf_refuses_a_place_of_two_bytes : (Instr.addBin rq 0 1 0 (.position 256 0)).wf = false := by decide
theorem test_wf_refuses_a_wide_resolution : (Instr.resolveBin rq (.lost 65536)).wf = false := by decide
theorem test_wf_refuses_a_wide_named_bin :
    (Instr.resolveBin rq (.atPosition 0 0 (some 65536))).wf = false := by decide
theorem test_wf_refuses_eight_characters : (Instr.renew rq (List.replicate 8 0x30)).wf = false := by decide
theorem test_wf_refuses_a_token_of_four_bytes : (Instr.retireBorrower rq 16777216).wf = false := by decide
theorem test_wf_refuses_a_wide_target : (Instr.fetch rq 0 0 (.bin 65536)).wf = false := by decide
theorem test_wf_refuses_a_short_target : (Instr.fetch rq 0 0 (.accession [])).wf = false := by decide
theorem test_wf_refuses_a_short_cursor : (Instr.listItems rq 0 (.after [])).wf = false := by decide
theorem test_wf_refuses_a_wide_selector : (Instr.listLoans rq (.start 256 none)).wf = false := by decide
theorem test_wf_refuses_a_wide_setting : (Instr.setDispatch rq 0 65536).wf = false := by decide
theorem test_wf_refuses_a_wide_label : (Instr.scan (some ([], 0))).wf = false := by decide
theorem test_wf_refuses_an_unknown_request_of_tag_zero : (Instr.unknownRequest 0 0).wf = false := by decide
theorem test_wf_refuses_a_wide_arrival : (Instr.portArrival 0 (some 65536)).wf = false := by decide

/-- A request frame that passes every framing test (R192). -/
def goodFrame : List Byte := [0x5A, 2, 1, 0] ++ beBytes 2 (crc [2, 1, 0]).toNat

theorem test_wf_refuses_a_good_frame_as_bad : (Instr.badFrame goodFrame).wf = false := by decide +kernel

/-! ### Worked examples of the manual -/

/-- "Example: a label check" (section 2.2): 123456789 with 29B1h is valid, with 29B0h it is not. -/
theorem test_label_check : crc (accessionChars 123456789) = 0x29B1 ∧
    label? (accessionChars 123456789) 0x29B1 = some 123456789 ∧
    label? (accessionChars 123456789) 0x29B0 = none := by decide +kernel

/-- "Example: a storage search" (section 1.3): the costs of the candidates. -/
theorem test_storage_search_costs :
    [(⟨1, .right, 2, 0⟩ : SlotAddr), ⟨1, .left, 2, 6⟩, ⟨1, .left, 1, 7⟩, ⟨1, .right, 0, 9⟩, ⟨2, .left, 2, 5⟩,
      ⟨2, .right, 3, 0⟩].map wing.slotCost = [28, 28, 29, 33, 28, 32] := by decide +kernel

/-- "Example: automatic placement" (section 2.3). -/
theorem test_automatic_placement :
    let r : Bin := { Bin.unused with fills := #v[38, 40, 12, 0, 0, 0, 0, 0], count := 9 }
    r.autoPlace 15 = some 2 ∧ (r.add 2 15).autoPlace 2 = some 0 ∧ ((r.add 2 15).add 0 2).autoPlace 14 = some 3 ∧
    (((r.add 2 15).add 0 2).add 3 14).free = 199 ∧ ((r.add 2 15).add 0 2).place 14 (some 2) = none := by
  decide +kernel

/-- Aisle A1 with its crane at level 5, column 40 (the merit example of section 4.4), at tick 120,000. -/
def meritState (st : CraneState) (p : CranePos) : State :=
  craned (at32 wing 120000) 1 (fun c => { c with state := st, position := some p })

/-- A FETCH of priority 1 from a slot of A1, enqueued some seconds ago. -/
def agedFetch (x : SlotAddr) (secs : Nat) : Job :=
  { fetchOf 1 (some 1) (.slot x) 0 false with priority := 1, enqueued := BitVec.ofNat 32 (120000 - 100 * secs) }

/-- "Example: merit at the default settings" (section 4.4): jobs A, B and C, the crane IDLE and RESTING. -/
theorem test_merit_example :
    let jobs := [agedFetch ⟨1, .left, 20, 10⟩ 30,
      { agedFetch x0 4 with kind := .putaway, source := .port, dest := .slot ⟨1, .left, 0, 0⟩ },
      agedFetch ⟨1, .left, 5, 40⟩ 200]
    jobs.map ((meritState .idle ⟨5, 40⟩).merit 1) = [166, 353, 240] ∧
    jobs.map ((meritState .resting parkPos).merit 1) = [99, 283, 163] := by decide +kernel

/-- "Example: the deadline of job A" (section 4.4): 310 ds. -/
theorem test_deadline_example :
    orderTime Settings.defaults.dispatch .retrieve false ⟨5, 40⟩ (some ⟨1, .left, 20, 10⟩) none = 310 := by
  decide +kernel

/-- The calendar of "Example: due days for class 0" (section 7.5). -/
def dueState : State := { wing with
  rsc.calBase := 960
  rsc.closedDays := [1028, 1029]
  rsc.policy := wing.rsc.policy.set 0 { wing.policyRow 0 with capDay := 1030 } }

/-- "Example: due days for class 0" (section 7.5). -/
theorem test_due_day_example : dueState.dueDay 1000 0 .general = 1030 ∧ dueState.dueDay 1000 0 .short = 1002 ∧
    dueState.dueDay 1010 0 .general = 1030 ∧ dueState.dueDay 1031 0 .general = 1059 := by decide +kernel

/-- "Example: recalls at the default settings" (section 8.4). -/
theorem test_recall_example :
    let r : Loan := { item := 0, borrower := 1, checkout := 1000, due := 1030, renewals := 0, recalled := false }
    wing.recallDay 1005 r = 1012 ∧ wing.recallDay 1001 r = 1008 ∧ wing.recallDay 1040 r = 1030 ∧
    wing.recallDay 2105 { r with checkout := 2105, due := 2133 } = 2112 := by decide +kernel

/-- "Example: the closed-run test" (section 7.4). -/
theorem test_closed_run_example :
    let s : State := { wing with rsc.calBase := 1000, rsc.closedDays := List.range' 1120 16 }
    s.runLength 1100 16 = 16 ∧
    State.runLength { s with rsc.closedDays := s.markDays 1100 16 true } 1116 4 = 36 ∧
    State.runLength { s with rsc.closedDays := s.markDays 1100 16 true } 1116 3 = 19 := by decide +kernel

/-- The tag after 255 is 1 (R83), and a tick is reached across the wrap of the count (00_scope, "Time"). -/
theorem test_tag_and_tick_wrap : nextTag 255 = 1 ∧ nextTag 254 = 255 ∧
    Tick.reached 0xFFFFFFFF 0 = true ∧ Tick.reached 1 0 = false ∧ Tick.reached 0 0x7FFFFFFF = true ∧
    Tick.reached 0 0x80000000 = false := by decide +kernel

/-- The step runs the command in front of the queue. -/
theorem test_step_takes_the_front : step (wing.withCommand .tick) = .next { wing with svp.tick := 1 } := rfl

/-! ### Witnesses: commands and the Service Port -/

/-- A response in the slot: a frame of seven bytes. -/
def doneResp : Response := ⟨1, .done, false, []⟩
/-- The wing with a full response slot. -/
def fullSlot : State := { wing with svp.resp := some doneResp }
/-- Some notices. -/
def notes (n : Nat) : List Notice := List.replicate n ⟨.zone, 0, 0, 0⟩
/-- After a record fault. -/
def faulted : State := { State.reset with svp.mountState := .recordFault, svp.longOp := none }

theorem witness_StepRunsTheFrontCommand :
    (wing.withCommand .tick).pending = .tick :: [] ∧ wing.pending = [] := by decide +kernel
theorem witness_FullSlotDiscardsFrames :
    (Instr.status rq).header = some rq ∧ fullSlot.svp.resp.isSome = true := by decide +kernel
theorem witness_MountStateRefusesRequests :
    (Instr.claimWing rq).header = some rq ∧ rq.tag ≠ 0 ∧ State.reset.svp.resp = none ∧
    State.reset.svp.mountState = .mounting ∧ Instr.claimWing rq ≠ .status rq ∧ faulted.svp.resp = none ∧
    faulted.svp.mountState = .recordFault ∧ (Instr.claimWing rq).alwaysServed = false := by decide +kernel
theorem witness_FramesThatReachNoRequest :
    wing.svp.resp = none ∧ frameOk [] = false ∧ frameOk (goodFrame ++ [0]) = false ∧ (255 : Byte) ≠ 0 ∧
    frameOk goodFrame = true := by decide +kernel
theorem witness_ResponseReadEmptiesTheSlot :
    wing.svp.resp = none ∧ fullSlot.svp.resp = some doneResp ∧ doneResp.frame.length ≤ 7 ∧
    6 < doneResp.frame.length := by decide +kernel
theorem witness_StatusReportsTheWord :
    State.reset.svp.resp = none ∧ rq.tag ≠ 0 ∧ rq.lengthOk = true := by decide +kernel
theorem witness_NoticesAreFirstInFirstOut :
    faulted.svp.mountState ≠ .mounting ∧ faulted.svp.resp = none ∧ faulted.svp.notices = [] ∧
    State.svp { wing with svp.notices := notes 1 } = { wing.svp with notices := ⟨.zone, 0, 0, 0⟩ :: [] } ∧
    (notes 63).length < 64 ∧ 64 ≤ (notes 64).length := by decide +kernel
theorem witness_ControllerResetKeepsTheRecords :
    wing.svp.resp = none ∧ rq.tag ≠ 0 ∧ rq.lengthOk = true ∧ wing.svp.mountState ≠ .mounting ∧
    Tab.wf wing.rsc.slots := by decide +kernel
theorem witness_MountEndsOrFails :
    State.reset.svp.mountState = .mounting ∧ State.reset.rsc.formatOk = false ∧ State.reset.svp.keptStation = [] ∧
    State.reset.svp.keptPort = [] ∧ State.reset.svp.notices.length < 64 ∧
    (State.reset.station fillStation).isOpen = false ∧ wing.svp.mountState ≠ .mounting := by decide +kernel

/-- The tables of a state are in order. -/
theorem form_of {s : State} (h : Tab.wf s.rsc.slots ∧ Tab.wf s.rsc.bins ∧ Tab.wf s.rsc.items ∧
    Tab.wf s.rsc.borrowers ∧ Tab.wf s.rsc.loans ∧ Tab.wf s.rsc.holds ∧ Tab.wf s.dsp.jobs ∧ Tab.wf s.clu.fireJobs ∧
    Tab.wf s.stu.batches) : s.Form :=
  ⟨h.1, h.2.1, h.2.2.1, h.2.2.2.1, h.2.2.2.2.1, h.2.2.2.2.2.1, h.2.2.2.2.2.2.1, h.2.2.2.2.2.2.2.1,
    h.2.2.2.2.2.2.2.2⟩

/-- A valid record memory at mount: bin 7 STORED and mapped, bin 8 STORED in a slot that does not name it, bin 9 on
a crane; item 0 SHELVED in bin 7, item 1 in the UNUSED bin 10, item 2 with two loans, item 3 IN_TRAY but not on the
tray, item 4 on the hold shelf; one arrival of each kind kept. -/
def remounting (holds : Bool) : State :=
  let s : State := { storing 7 x0 .fire with
    svp := { State.reset.svp with keptStation := [⟨5, 1, some 9⟩], keptPort := [⟨3, some 8⟩] }
    rsc.items := [(0, itemAs (.shelved 7 7) []), (1, itemAs (.shelved 10 0) []), (2, itemAs .missing []),
      (3, itemAs .inTray []), (4, itemAs (.holdShelf 5) (if holds then [0, 16383] else []))]
    rsc.borrowers := [(1, reader 9 9)]
    rsc.loans := [(0, ⟨2, 1, 3, 9, 0, true⟩), (65535, ⟨2, 1, 4, 4, 0, false⟩)]
    rsc.holds := if holds then [(0, ⟨4, 1, 0, .ready 9⟩), (16383, ⟨5, 1, 0, .waiting⟩)] else [] }
  (s.setBin 8 (binAs (.stored x2) (.job 3))).setBin 9 (binAs (.onCrane (some xl)) .none)

theorem witness_MountRepairs : (remounting true).svp.mountState = .mounting ∧
    (remounting true).rsc.formatOk = true ∧ (remounting true).Form ∧ (remounting true).NoneAvailable ∧
    (remounting true).frontNormal = true ∧ (remounting true).svp.notices.length < 64 ∧
    (remounting false).rsc.holds = [] :=
  ⟨by decide +kernel, by decide +kernel, form_of (by decide +kernel), none_of (by decide +kernel), by decide +kernel⟩

/-- A valid record memory at mount whose item 0, SHELVED in the STORED bin 7, is waited for by hold 6, whose hold 5 the
borrower of hold 6 has placed too, whose queue references hold 6 a second time, and whose holds 4 and 9 it does not
name; item 1 is on loan to the borrower of its hold 7; item 2 on the hold shelf has the READY hold 8. -/
def remountingLine : State :=
  let s : State := { storing 7 x0 .none with
    svp := State.reset.svp
    rsc.items := [(0, itemAs (.shelved 7 0) [6, 5, 6]), (1, itemAs (.onLoan 3) [7]), (2, itemAs (.holdShelf 3) [8])]
    rsc.borrowers := [(1, reader 0 0), (2, reader 0 0), (3, reader 0 0)]
    rsc.loans := [(3, ⟨1, 2, 0, 9, 0, false⟩)]
    rsc.holds := [(4, ⟨0, 3, 8, .waiting⟩), (5, ⟨0, 1, 2, .waiting⟩), (6, ⟨0, 1, 5, .ready 9⟩),
      (7, ⟨1, 2, 0, .waiting⟩), (8, ⟨2, 1, 0, .ready 9⟩), (9, ⟨0, 2, 8, .waiting⟩)] }
  s

theorem witness_MountRepairs_line : remountingLine.svp.mountState = .mounting ∧ remountingLine.rsc.formatOk = true ∧
    remountingLine.Form ∧ remountingLine.NoneAvailable ∧ remountingLine.frontNormal = true ∧
    remountingLine.svp.notices.length < 64 ∧ remountingLine.circ.pages = [] ∧
    remountingLine.item 0 = some (itemAs (.shelved 7 0) [6, 5, 6]) ∧
    (let names : Nat → Bool := fun n =>
        (remountingLine.hold n).any (fun r => r.item = 0 && (remountingLine.borrower r.borrower).isSome);
      (∀ n, n ∈ [4, 9] → names n = true ∧ n ∉ [6, 5, 6]) ∧ names 6 = true ∧ names 5 = true ∧
      (remountingLine.rsc.holds.filter (fun e => names e.1)).map Prod.fst = [4, 5, 6, 9] ∧
      [4, 9].Pairwise (fun m n => (remountingLine.hold m).map (·.placed) = (remountingLine.hold n).map (·.placed) ∧
        m < n)) :=
  ⟨by decide +kernel, by decide +kernel, form_of (by decide +kernel), none_of (by decide +kernel), by decide +kernel,
    by decide +kernel, by decide +kernel, by decide +kernel, by decide +kernel⟩

/-- R162 and R40: hold 5 goes, for its borrower stands before it, and of hold 6 the second reference (log 59); 4 and 9
follow; the READY hold of the SHELVED item waits, and that of the HOLD_SHELF item stays; the hold of item 1's own
reader goes. -/
theorem test_mount_keeps_the_line :
    let t := remountingLine.mountRepairs
    t.item 0 = some (itemAs (.shelved 7 0) [6, 4, 9]) ∧ t.hold 5 = none ∧ t.hold 6 = some ⟨0, 1, 5, .waiting⟩ ∧
    t.item 1 = some (itemAs (.onLoan 3) []) ∧ t.hold 7 = none ∧ t.item 2 = some (itemAs (.holdShelf 3) [8]) ∧
    t.hold 8 = some ⟨2, 1, 0, .ready 9⟩ := by decide +kernel

/-- R56, R162: mount's repairs list the page and create no job; its FETCH is there once mount has ended. -/
theorem test_mount_places_its_page :
    remountingLine.mountRepairs.circ.pages = [⟨6, 0, 7, .unplaced⟩] ∧ remountingLine.mountRepairs.dsp.jobs = [] ∧
    remountingLine.mountEnd.circ.pages = [⟨6, 0, 7, .onJob 0⟩] ∧
    (remountingLine.mountEnd.job 0).map (·.origin) = some (.page 6) := by decide +kernel

/-! ### Witnesses: bins and slots -/

theorem witness_AddBin : Served rq wing ∧ wing.Quiet 16383 ∧ 16383 < 16384 ∧ height? 1 = some .standard ∧
    climate? 1 = some .controlled ∧ (wing.bin 16383).state = .unused ∧ slot? rawl = some xl ∧
    (wing.slot xl).state = .free ∧ (wing.slot xl).held = none ∧
    fits { Bin.unused with height := .standard, climate := .controlled } (wing.slot xl) = true ∧
    station? 5 = some 5 ∧ pos? 1 = some 1 ∧ (wing.position 5 1).content = .empty ∧
    ¬(Climate.controlled = .controlled ∧ noControlled 5 = true) ∧ wing.stu.batches = [] :=
  ⟨served_of (by decide +kernel), quiet_of (by decide +kernel), by decide +kernel⟩
theorem witness_RetireBin :
    let s := showing wing 7 5 1
    Served rq s ∧ 7 < 16384 ∧ (s.bin 7).state = .presented 5 1 ∧ (s.bin 7).count = 0 ∧ s.oldestClaim 7 = none ∧
    (5 : StationNo) ≠ fillStation ∧ s.fillOf 7 = none ∧ (s.station 5).isDraining = false :=
  ⟨served_of (by decide +kernel), by decide +kernel⟩
theorem witness_RetireBin_not_presented : Served rq wing ∧ 16383 < 16384 ∧
    ∀ t p, (wing.bin 16383).state ≠ .presented t p :=
  ⟨served_of (by decide +kernel), by decide +kernel, by intro t p h; cases h⟩

/-- The wing with an UNCERTAIN bin 16,383. -/
def losing : State := wing.setBin 16383 (binAs .uncertain .none)
/-- A wing whose position P0 of S0 is UNKNOWN. -/
def unread : State := wing.setPosition 0 0 { Position.empty with content := .unknown, attention := true }

theorem witness_ResolveBin : Served rq losing ∧ losing.Quiet 16383 ∧ 16383 < 16384 ∧ slot? raw0 = some x0 ∧
    (losing.bin 16383).state = .uncertain ∧ (losing.slot x0).state = .free ∧ (losing.slot x0).held = none ∧
    fits (losing.bin 16383) (losing.slot x0) = true ∧ station? 5 = some 5 ∧ pos? 1 = some 1 ∧
    (∀ c, (losing.position 5 1).content ≠ .bin c) ∧
    ¬((losing.bin 16383).climate = .controlled ∧ noControlled 5 = true) ∧ losing.stu.batches = [] :=
  ⟨served_of (by decide +kernel), quiet_of (by decide +kernel), by decide, by decide +kernel, by decide +kernel,
    by decide +kernel, by decide +kernel, by decide +kernel, by decide +kernel, by decide +kernel,
    (by intro c h; cases h), by decide +kernel, by decide +kernel⟩
theorem witness_ResolveBin_unknown : Served rq unread ∧ station? 0 = some 0 ∧ pos? 0 = some 0 ∧
    (unread.position 0 0).content = .unknown ∧ (0 : StationNo) ≠ fillStation ∧
    (unread.station 0).isDraining = false :=
  ⟨served_of (by decide +kernel), by decide +kernel⟩
theorem witness_ResolveBinLost :
    let s := losing.setItem 0 (itemAs (.shelved 16383 7) [])
    Served rq s ∧ 16383 < 16384 ∧ (s.bin 16383).state = .uncertain ∧ s.oldestClaim 16383 = none ∧
    s.circ.pages = [] ∧ Tab.wf s.rsc.items ∧ s.item 0 = some (itemAs (.shelved 16383 7) []) :=
  ⟨served_of (by decide +kernel), by decide +kernel⟩
theorem witness_SlotAndAisleMarks : Served rq wing ∧ slot? rawl = some xl ∧ height? 2 = some .tall ∧
    climate? 1 = some .controlled ∧ aisle? 3 = some 3 ∧ 3 < 4 :=
  ⟨served_of (by decide +kernel), by decide +kernel⟩

/-- A tall bin in a slot of a height class. -/
def tallIn (H : Height) : State :=
  ((storing 7 x0 .none).setBin 7 { binAs (.stored x0) .none with height := .tall }).setSlot x0 { wing.slot x0 with
    state := .occupied 7, height := H }

/-- SET_SLOT to the standard class over a tall bin is refused; a tall bin that a VERIFY found in a standard slot
leaves a change of the blocked mark alone accepted (R5). -/
theorem witness_SlotMarks_tall : ∀ H, Served rq (tallIn H) ∧ slot? raw0 = some x0 ∧ height? 1 = some .standard ∧
    climate? 0 = some ((tallIn H).slot x0).climate ∧ (tallIn H).slotBin x0 = some 7 ∧
    ((tallIn H).bin 7).height = .tall ∧ ((tallIn H).slot x0).height = H :=
  fun H => by cases H <;> exact ⟨served_of (by decide +kernel), by decide +kernel⟩

/-- The wing with aisle A0 alone in service. -/
def oneAisle : State := { wing with rsc.inService := #v[true, false, false, false] }

theorem witness_wingSearch : oneAisle.wingSearch .standard .general allAisles = some (x0, 0) := by decide +kernel
theorem witness_aisleSearch : oneAisle.aisleSearch .standard .general 0 = some x0 := by decide +kernel
/-- With the first slot of A0 blocked and a job in A0's queue, the slot beside it costs what A1's first slot costs, and
the wing search takes A1, whose queue is shorter. -/
theorem witness_searches :
    let s := (wing.setSlot x0 { wing.slot x0 with blocked := true }).setQueue 0 { wing.queue 0 with jobs := [1] }
    (s.slot ⟨0, .right, 0, 0⟩).state = .free ∧ (s.slot ⟨0, .right, 0, 0⟩).held = none ∧
    (s.slot ⟨0, .right, 0, 0⟩).blocked = false ∧ (s.slot ⟨0, .right, 0, 0⟩).climate = .general ∧
    (s.slot ⟨0, .right, 0, 0⟩).height = .standard ∧ allAisles.Pairwise (· < ·) ∧
    s.wingSearch .standard .general [0, 1] = some (⟨1, .left, 0, 0⟩, 0) := by decide +kernel
theorem witness_RackLookups : Served rq oneAisle ∧ height? 1 = some .standard ∧ climate? 0 = some .general ∧
    (15 : BitVec 4) ≠ 0 ∧ allAisles.filter (fun a => (15 : BitVec 4).getLsbD a.val) = allAisles ∧
    State.wingSearch { oneAisle with rsc.inService := Vector.replicate 4 false } .standard .general allAisles = none ∧
    height? 3 = none ∧ climate? 2 = none ∧ 16383 < 16384 ∧ slot? rawl = some xl ∧ 16384 ≤ 16384 ∧
    slot? ⟨4, 0, 0, 0⟩ = none :=
  ⟨served_of (by decide +kernel), by decide +kernel⟩
theorem witness_MoveBin :
    let s := storing 16383 x0 .none
    Served rq s ∧ 16383 < 16384 ∧ s.authority = .library ∧ (s.bin 16383).state = .stored x0 ∧
    (s.bin 16383).owner = .none ∧ s.oldestClaim 16383 = none ∧ slot? ⟨0, 1, 23, 95⟩ = some ⟨0, .right, 23, 95⟩ ∧
    s.destRefusal 16383 x0 ⟨0, .right, 23, 95⟩ = none ∧ s.freeJob = some 0 ∧ (s.queue 0).used < 32 ∧
    (s.crane 0).available = false :=
  ⟨served_of (by decide +kernel), by decide +kernel⟩
theorem witness_MoveBin_search :
    (storing 16383 x0 .none).aisleSearch .standard .general 0 = some ⟨0, .right, 0, 0⟩ := by
  decide +kernel

/-! ### Witnesses: items -/

theorem witness_AddItem : Served rq wing ∧ 40 < 41 ∧ 1 ≤ 40 ∧ itemClass? 3 = some .rare ∧ station? 5 = some 5 ∧
    label? (accessionChars 0) 0 = none ∧
    label? (accessionChars 999999999) (crc (accessionChars 999999999)) = some 999999999 :=
  ⟨served_of (by decide +kernel), by decide +kernel⟩
theorem witness_Labels : label? (accessionChars 123456789) 0x29B1 = some 123456789 ∧ 123456789 < 1000000000 ∧
    crc (accessionChars 123456789) = 0x29B1 := by decide +kernel

/-- The wing with an item 0 in a state, on loan or held as its fields say. -/
def having (st : ItemState) (q : List Nat) : State := wing.setItem 0 (itemAs st q)

theorem witness_WithdrawItem :
    let s := (having .missing [16383]).setHold 16383 ⟨0, 1, 0, .waiting⟩
    Served rq s ∧ accession? (accessionChars 0) = some 0 ∧ s.item 0 = some (itemAs .missing [16383]) ∧
    s.circ.pages = [] ∧ [16383].Nodup ∧ s.svp.notices.length + 1 ≤ 64 :=
  ⟨served_of (by decide +kernel), by decide +kernel⟩

/-- Bin 7 presented at S5 with item 0 in its compartment 7, and a hold that waits for it. -/
def picking : State :=
  (((showing wing 7 5 0).setBin 7 ((binAs (.presented 5 0) (.station 5)).add 7 40)).setItem 0
    (itemAs (.shelved 7 7) [0])).setHold 0 ⟨0, 1, 0, .waiting⟩ |>.setBorrower 1 (reader 0 1)

theorem witness_PickItem : Served rq picking ∧ station? 5 = some 5 ∧ accession? (accessionChars 0) = some 0 ∧
    picking.item 0 = some (itemAs (.shelved 7 7) [0]) ∧ (picking.bin 7).state = .presented 5 0 ∧
    ¬(ItemClass.general = .rare ∧ (5 : StationNo) ≠ 3) ∧ (∀ g ∈ picking.circ.pages, g.item ≠ 0) ∧
    (5 : StationNo) = serviceStation ∧
    picking.firstWaiting (itemAs (.shelved 7 7) [0]) = some (0, ⟨0, 1, 0, .waiting⟩) ∧
    picking.borrower 1 = some (reader 0 1) ∧ (picking.delHold 0).firstWaiting (itemAs (.shelved 7 7) [0]) = none :=
  ⟨served_of (by decide +kernel), by decide +kernel⟩
theorem witness_PlaceItem :
    let s := (showing wing 7 5 1).setItem 0 (itemAs (.atDesk 5) [])
    Served rq s ∧ station? 5 = some 5 ∧ optIn pos? (some 1) = some (some 1) ∧
    optIn compartment? none = some none ∧ accession? (accessionChars 0) = some 0 ∧
    s.item 0 = some (itemAs (.atDesk 5) []) ∧ s.firstWaiting (itemAs (.atDesk 5) []) = none ∧
    (5 : StationNo) ≠ fillStation ∧ s.firstRoom (s.considered 5 (some 1)) .general 40 none = some (1, 7, 0) :=
  ⟨served_of (by decide +kernel), by decide +kernel⟩

/-- Bin 7 presented at P1 of a station, and item 0 at the desk with a hold that waits for it. -/
def replacing (t : StationNo) : State :=
  ((showing wing 7 t 1).setItem 0 (itemAs (.atDesk 5) [16383])).setHold 16383 ⟨0, 1, 0, .waiting⟩

theorem witness_PlaceItem_pages : ∀ t, t = 5 ∨ t = 3 → Served rq (replacing t) ∧ station? t.val = some t ∧
    (replacing t).item 0 = some (itemAs (.atDesk 5) [16383]) ∧ t ≠ fillStation ∧
    (replacing t).firstRoom ((replacing t).considered t none) .general 40 none = some (1, 7, 0) ∧
    (replacing t).firstWaiting (itemAs (.atDesk 5) [16383]) = some (16383, ⟨0, 1, 0, .waiting⟩) ∧
    (∀ g ∈ (replacing t).circ.pages, g.item ≠ 0 ∧ g.hold ≠ 16383) ∧
    ((replacing t).bin 7).state = .presented t 1 ∧ ((replacing t).bin 7).owner = .station t ∧
    (replacing t).clu.claims.length < 32 := by
  rintro t (rfl | rfl) <;> exact ⟨served_of (by decide +kernel), by decide +kernel⟩
theorem witness_MarkMissing : Served rq picking ∧ accession? (accessionChars 0) = some 0 ∧
    picking.item 0 = some (itemAs (.shelved 7 7) [0]) ∧ (∀ g ∈ picking.circ.pages, g.item ≠ 0) :=
  ⟨served_of (by decide +kernel), by decide +kernel⟩
theorem witness_MarkMissing_refused : Served rq (having .inTray []) ∧
    (having .inTray []).item 0 = some (itemAs .inTray []) ∧ ∀ b k, (itemAs .inTray []).state ≠ .shelved b k :=
  ⟨served_of (by decide +kernel), by decide +kernel, by intro b k h; cases h⟩
theorem witness_ItemLookups : Served rq picking ∧ accession? (accessionChars 0) = some 0 ∧
    picking.item 0 = some (itemAs (.shelved 7 7) [0]) ∧ 16383 < 16384 ∧ cursor? .start = some none ∧
    cursor? (.after (accessionChars 999999999)) = some (some 999999999) :=
  ⟨served_of (by decide +kernel), by decide +kernel⟩

/-! ### Witnesses: settings, queues, selection -/

theorem witness_Settings : Served rq wing ∧ residenceStation (some 5) = some 5 ∧
    (wing.position 5 0).deadline = none ∧ (wing.position 5 1).deadline = none ∧
    (wing.position fillStation 0).deadline = none ∧ (wing.position fillStation 1).deadline = none ∧
    State.fiu { wing with fiu.libraryClaim := false } = { wing.fiu with libraryClaim := false } ∧
    wing.fiu.lapsed = false ∧ wing.fiu.supTimer = none :=
  ⟨served_of (by decide +kernel), by decide +kernel⟩

/-- Bin 7 PRESENTED at P1 of a station for a minute, the station NORMAL and OPEN or in FIRE_HOLD over OPEN. -/
def residing (t : StationNo) (hold : Bool) : State :=
  let s := at32 (showing wing 7 t 1) 6000
  s.setStation t { s.station t with state := if hold then .fireHold .opened else .normal .opened }

/-- The limit of 1 minute is reached, the limit of 2 is not; that of S4 is reached while it is in FIRE_HOLD. -/
theorem witness_Settings_residence : ∀ t : StationNo, t = 5 ∨ t = fillStation → ∀ hold,
    hold = decide (t = fillStation) →
    let s := residing t hold
    Served rq s ∧ residenceStation (some 5) = some 5 ∧
    (s.position t 1).restart.or (s.position t 1).arrival = some 0 ∧
    (s.position t 1).deadline = some (BitVec.ofNat 32 (6000 * s.rsc.settings.station.residence[t])) ∧
    (∀ q, q ≠ 1 → (s.position t q).deadline = none) ∧ (s.position t 1).content = .bin 7 ∧
    (t = fillStation → (s.station t).inHold = true) ∧
    lampFor s.svp.tick s.rsc.settings.station.lampOn (s.station t) = (s.station t).lamp ∧
    Tick.reached (BitVec.ofNat 32 (6000 * max 1 (min 1 120))) s.svp.tick = true ∧
    Tick.reached (BitVec.ofNat 32 (6000 * max 1 (min 2 120))) s.svp.tick = false := by
  rintro t (rfl | rfl) hold rfl <;> exact ⟨served_of (by decide +kernel), by decide +kernel⟩

/-- The library holds the wing with no supervision, or with its timer running; the claim lapsed or not. -/
def watched (period : Nat) (timer : Option Tick) (lapsed : Bool) : State :=
  { wing with rsc.settings.interlock.supervision := period, fiu.supTimer := timer, fiu.lapsed := lapsed }

theorem witness_Settings_supervision :
    Served rq (watched 0 none false) ∧ (watched 0 none false).rsc.settings.interlock.supervision = 0 ∧
    (watched 0 none false).fiu.libraryClaim = true ∧ 0 < 60 ∧
    Served rq (watched 5 (some 9) false) ∧ (watched 5 (some 9) false).rsc.settings.interlock.supervision ≠ 0 ∧
    (watched 5 (some 9) false).fiu.supTimer = some 9 ∧
    Served rq (watched 5 none true) ∧ (watched 5 none true).fiu.lapsed = true ∧ (watched 5 none true).NoneAvailable ∧
    ∀ a, ((watched 5 none true).crane a).state ≠ .parked :=
  ⟨served_of (by decide +kernel), by decide +kernel, by decide +kernel, by decide, served_of (by decide +kernel),
    by decide +kernel, by decide +kernel, served_of (by decide +kernel), by decide +kernel,
    none_of (by decide +kernel), by decide +kernel⟩

/-- The wing with A3's queue STOPPED. -/
def stopped (s : State) (a : Aisle) : State := s.setQueue a { s.queue a with state := .stopped, reason := some .host }

theorem witness_StopAndStartAisle :
    Served rq (craned wing 3 (fun c => { c with state := .busy })) ∧ aisle? 3 = some 3 ∧
    ((craned wing 3 (fun c => { c with state := .busy })).queue 3).state = .running ∧
    ((craned wing 3 (fun c => { c with state := .busy })).crane 3).state.holdsOrder = true ∧
    (wing.queue 3).state = .running ∧ (wing.crane 3).state.holdsOrder = false ∧
    ((stopped wing 3).queue 3).state ≠ .running ∧ wing.latched 3 = false ∧ wing.zoneNormal 3 = true ∧
    (wing.crane 3).buffer = [] ∧ (wing.crane 3).available = false :=
  ⟨served_of (by decide +kernel), by decide +kernel⟩

/-- A3's zone in a state, its latch set or not. -/
def zoned (s : State) (z : ZoneNo) (f : Zone → Zone) : State := s.setZone z (f (s.zone z))

theorem witness_StartAisle_refused :
    (zoned wing 3 (fun r => { r with latch := true })).latched 3 = true ∧
    (zoned wing 3 (fun r => { r with state := .standby })).latched 3 = false ∧
    (zoned wing 3 (fun r => { r with state := .standby })).zoneNormal 3 = false := by decide +kernel

/-- Bin 7 in the first slot of A2, with a QUEUED FETCH 127 for S5. -/
def fetching : State :=
  let s := (storing 7 x2 (.job 127)).setJob 127 (fetchOf 7 (some 2) (.slot x2) 5 false)
  s.setQueue 2 { s.queue 2 with jobs := [127] }

theorem witness_CancelJob : Served rq fetching ∧ fetching.NothingWaits ∧ 127 < 128 ∧
    fetching.job 127 = some (fetchOf 7 (some 2) (.slot x2) 5 false) ∧ fetching.job 0 = none ∧
    (fetching.bin 7).owner = .job 127 ∧ 127 ∈ (fetching.queue 2).jobs ∧ (fetching.queue 2).putback ≠ some 127 :=
  ⟨served_of (by decide +kernel), waits_of (by decide +kernel), by decide +kernel⟩
theorem witness_AuditAisle : Served rq wing ∧ aisle? 3 = some 3 ∧ wing.svp.longOp = none ∧
    wing.authority = .library ∧ wing.auditNext 3 0 = none ∧
    State.authority { wing with fiu.libraryClaim := false } ≠ .library ∧
    State.svp { wing with svp.longOp := some .turnover } = { wing.svp with longOp := some .turnover } :=
  ⟨served_of (by decide +kernel), by decide +kernel⟩

/-- Bin 7 with its audit mark in a slot of A2, owned by a job or not. -/
def marked (x : SlotAddr) (o : Owner) : State :=
  (storing 7 x o).setBin 7 { binAs (.stored x) o with audit := true }

/-- In the first slot of the aisle and in its last one; unowned, owned, and claimed. -/
theorem witness_AuditAisle_pending : ∀ x, x = x2 ∨ x = ⟨2, .right, 23, 95⟩ → ∀ o, o = .none ∨ o = .job 5 →
    let s := marked x o
    let i := if x = x2 then 0 else 4607
    Served rq s ∧ aisle? 2 = some 2 ∧ s.svp.longOp = none ∧ s.authority = .library ∧
    s.auditNext 2 0 = some (i, 7) ∧ s.auditNext 2 (i + 1) = none ∧ (s.bin 7).owner = o ∧ s.oldestClaim 7 = none ∧
    s.freeJob = some 0 ∧ (s.queue 2).used < 32 ∧ (s.crane 2).available = false ∧
    State.oldestClaim { s with clu.claims := [⟨7, .single, 5, 3, 0⟩] } 7 ≠ none := by
  rintro x (rfl | rfl) o (rfl | rfl) <;> exact ⟨served_of (by decide +kernel), by decide +kernel⟩

/-- A batch of one FAILED entry. -/
def smallBatch : Batch :=
  { station := 5, mode := .burst, sequence := 1, priority := 3, entries := [⟨.bin 7, none, false, .failed⟩],
    state := .active }

theorem witness_MovementLookups : Served rq (fetching.setBatch 7 smallBatch) ∧ 127 < 128 ∧
    fetching.job 127 = some (fetchOf 7 (some 2) (.slot x2) 5 false) ∧ fetching.job 126 = none ∧ aisle? 0 = some 0 ∧
    station? 5 = some 5 ∧ 7 < 8 ∧ (fetching.setBatch 7 smallBatch).batch 7 = some smallBatch ∧
    (fetching.setBatch 7 smallBatch).batch 0 = none :=
  ⟨served_of (by decide +kernel), by decide +kernel⟩
theorem witness_Merit :
    let s : State := { wing with rsc.settings.dispatch.wt := 15 }
    s.rsc.settings.dispatch.wt ≤ 15 ∧ (fetchOf 7 (some 2) (.slot x2) 5 false).priority ≤ 3 ∧
    (∃ t, exec (.setDispatch rq 1 16) s = .next t) :=
  ⟨by decide +kernel, by decide, _, rfl⟩

/-- A2's crane IDLE at the port, its lane to S5 open. -/
def selecting : State :=
  let s := craned fetching 2 (fun c => { c with state := .idle, position := some portPos })
  s.setStation 5 { s.station 5 with state := .normal .opened }

theorem witness_Selection : (wing.crane 2).resume = none ∧ (wing.crane 2).state = .down ∧
    selecting.bestJob 2 = some (127, fetchOf 7 (some 2) (.slot x2) 5 false) := by decide +kernel
theorem witness_Selection_taken : ∀ st, st = .idle ∨ st = .resting →
    let s := craned selecting 2 (fun c => { c with state := st })
    (s.crane 2).resume = none ∧ (s.queue 2).state = .running ∧ (s.zone 2).state = .normal ∧
    (s.zone 2).latch = false ∧ s.authority = .library ∧ s.fiu.lapsed = false ∧ (s.crane 2).state = st ∧
    (∀ i ∈ (s.queue 2).jobs, i = 127) ∧ s.job 127 = some (fetchOf 7 (some 2) (.slot x2) 5 false) ∧
    (s.reservePutbacks 2).bestJob 2 = some (127, fetchOf 7 (some 2) (.slot x2) 5 false) ∧
    (wing.reservePutbacks 2).bestJob 2 = none := by
  intro st h; obtain rfl | rfl := h <;> decide +kernel

/-! ### Witnesses: cranes -/

/-- A2's crane HALTED over the picked order of FETCH 127. -/
def haltedCrane : State :=
  craned (fetching.setJob 127 (fetchOf 7 (some 2) (.slot x2) 5 true)) 2 (fun c => { c with
    state := .halted, load := true, order := some (orderOf .retrieve (some 127) (some x2) true) })

theorem witness_RecoverCrane : Served rq haltedCrane ∧ aisle? 2 = some 2 ∧ (wing.crane 2).state ≠ .halted ∧
    (haltedCrane.crane 2).state = .halted ∧
    haltedCrane.heldOrder 2 = some (orderOf .retrieve (some 127) (some x2) true, 127,
      fetchOf 7 (some 2) (.slot x2) 5 true) ∧
    (orderOf .retrieve (some 127) (some x2) true).isPicked = true ∧ (haltedCrane.crane 2).load = true ∧
    (craned wing 2 (fun c => { c with state := .halted })).heldOrder 2 = none ∧
    ((craned wing 2 (fun c => { c with state := .halted })).crane 2).state = .halted ∧
    ((craned wing 2 (fun c => { c with state := .halted })).crane 2).resume = none :=
  ⟨served_of (by decide +kernel), by decide +kernel⟩

/-- A2's crane HALTED over the order of FETCH 127 before its PICKED, the bin in the lane of S5. -/
def haltedEmpty : State :=
  let s := craned haltedCrane 2 (fun c => { c with
    load := false, order := some (orderOf .retrieve (some 127) (some x2) false) })
  s.setStation 5 { s.station 5 with lane := [7] }

theorem witness_RecoverCrane_not_picked : haltedEmpty.NothingWaits ∧ haltedEmpty.NoneAvailable ∧
    (haltedEmpty.crane 2).state = .halted ∧
    haltedEmpty.heldOrder 2 = some (orderOf .retrieve (some 127) (some x2) false, 127,
      fetchOf 7 (some 2) (.slot x2) 5 true) ∧
    (orderOf .retrieve (some 127) (some x2) false).isPicked = false ∧ (haltedEmpty.crane 2).load = false ∧
    (haltedEmpty.station 5).isDraining = false :=
  ⟨waits_of (by decide +kernel), none_of (by decide +kernel), by decide +kernel⟩

/-- A2's crane HALTED with the bin of FETCH 127 on its forks. -/
def haltedLoaded : State :=
  let s := (haltedCrane.setBin 7 (binAs (.onCrane none) (.job 127))).setSlot x2 (wing.slot x2)
  s.setStation 5 { s.station 5 with lane := [7] }

theorem witness_RecoverCrane_found_or_lost : haltedLoaded.NothingWaits ∧ haltedLoaded.NoneAvailable ∧
    (haltedLoaded.crane 2).state = .halted ∧
    haltedLoaded.heldOrder 2 = some (orderOf .retrieve (some 127) (some x2) true, 127,
      fetchOf 7 (some 2) (.slot x2) 5 true) ∧
    (haltedLoaded.bin 7).state = .onCrane none ∧ (haltedLoaded.bin 7).owner = .job 127 ∧
    127 ∈ (haltedLoaded.queue 2).jobs ∧ (haltedLoaded.queue 2).putback ≠ some 127 ∧
    (∀ c, 7 ∉ (haltedLoaded.crane c).buffer) ∧ (∀ v, (haltedLoaded.station v).isDraining = false) ∧
    haltedLoaded.svp.notices.length < 64 ∧ slot? ⟨2, 1, 23, 95⟩ = some ⟨2, .right, 23, 95⟩ ∧
    (haltedLoaded.slot ⟨2, .right, 23, 95⟩).state = .free ∧ (haltedLoaded.slot ⟨2, .right, 23, 95⟩).held = none ∧
    fits (haltedLoaded.bin 7) (haltedLoaded.slot ⟨2, .right, 23, 95⟩) = true :=
  ⟨waits_of (by decide +kernel), none_of (by decide +kernel), by decide +kernel⟩

/-- Bin 16,383 in the buffer of A3's port, with the last slot reserved. -/
def ported : State :=
  craned ((wing.setBin 16383 (binAs (.atPort 3 (some xl)) .none)).setSlot xl { wing.slot xl with
    state := .reserved 16383 }) 3 (fun c => { c with buffer := [16383] })

theorem witness_PortRemove : Served rq ported ∧ ported.NothingWaits ∧ aisle? 3 = some 3 ∧ 16383 < 16384 ∧
    16383 ∈ (ported.crane 3).buffer ∧ (ported.crane 3).overflow = [] ∧
    (∀ c, c ≠ 3 → 16383 ∉ (ported.crane c).buffer) ∧ (ported.bin 16383).state = .atPort 3 (some xl) ∧
    (ported.slot xl).state = .reserved 16383 ∧ (ported.bin 16383).owner = .none ∧
    Tab.find ported.clu.fireJobs 16383 = none ∧
    ∀ u, 16383 ∉ (ported.station u).lane :=
  ⟨served_of (by decide +kernel), waits_of (by decide +kernel), by decide +kernel⟩

/-- A2's crane BUSY with the order of the ACTIVE FETCH 127, its queue STOPPED. -/
def busyCrane (picked : Bool) : State :=
  let s := fetching.setJob 127 (fetchOf 7 (some 2) (.slot x2) 5 true)
  let s := if picked then (s.setBin 7 (binAs (.onCrane none) (.job 127))).setSlot x2 (wing.slot x2) else s
  craned (stopped s 2) 2 (fun c => { c with
    state := .busy, order := some (orderOf .retrieve (some 127) (some x2) picked), load := picked })

theorem witness_AcceptedPickedDone : (busyCrane true).NothingWaits ∧
    (∀ k, ((busyCrane k).crane 2).state = .busy ∧
      ((busyCrane k).crane 2).order = some (orderOf .retrieve (some 127) (some x2) k) ∧
      (busyCrane k).job 127 = some (fetchOf 7 (some 2) (.slot x2) 5 true) ∧ ((busyCrane k).crane 2).buffer = [] ∧
      127 ∈ ((busyCrane k).queue 2).jobs ∧ ((busyCrane k).queue 2).putback ≠ some 127 ∧
      ((busyCrane k).queue 2).state = .stopped ∧ (busyCrane k).zoneNormal 2 = true ∧
      (busyCrane k).authority = .library ∧ ((busyCrane k).crane 2).resume = none ∧
      (busyCrane k).rsc.settings.restIdle = 0) ∧
    ((busyCrane false).bin 7).state = .stored x2 ∧ ((busyCrane false).slot x2).state = .occupied 7 ∧
    ((busyCrane true).bin 7).state = .onCrane none ∧
    (orderOf .retrieve (some 127) (some x2) false).tag = 255 :=
  ⟨waits_of (by decide +kernel), by decide +kernel⟩

/-- A2's crane BUSY with the order of an ACTIVE job 127 that takes bin 7 to a slot, its queue STOPPED. -/
def storingCrane (k : OrderKind) (r : Job) (st : BinState) (picked : Bool) : State :=
  let s := (wing.setBin 7 (binAs st (.job 127))).setJob 127 { r with active := true }
  let s := stopped (s.setQueue 2 { s.queue 2 with jobs := [127] }) 2
  craned s 2 (fun c => { c with state := .busy, order := some (orderOf k (some 127) none picked), load := picked })

/-- A PUTAWAY of bin 7 into the first slot of A2, and a SHIFT of it there from another slot. -/
def putaway7 : Job :=
  { fetchOf 7 (some 2) .port 0 true with kind := .putaway, dest := .slot x2, origin := .return }
def shift7 : Job := { fetchOf 7 (some 2) (.slot ⟨2, .left, 1, 1⟩) 0 true with kind := .shift, dest := .slot x2 }

/-- The STORE of bin 7 before its PICKED. -/
def storePicking : State :=
  craned ((storingCrane .store putaway7 (.atPort 2 (some x2)) false).setSlot x2 { wing.slot x2 with
    state := .reserved 7 }) 2 (fun c => { c with buffer := [7] })
/-- The SHIFT of bin 7 before its PICKED, its destination held. -/
def shiftPicking : State :=
  ((storingCrane .shift shift7 (.stored ⟨2, .left, 1, 1⟩) false).setSlot ⟨2, .left, 1, 1⟩ { wing.slot x2 with
    state := .occupied 7 }).setSlot x2 { wing.slot x2 with held := some 127 }
/-- The bin on the forks, its destination reserved, with some claims in the table. -/
def storeDone (cs : List Claim) : State :=
  { ((storingCrane .store putaway7 (.onCrane (some x2)) true).setSlot x2 { wing.slot x2 with
    state := .reserved 7 }) with clu.claims := cs }

theorem witness_Picked_store_and_shift :
    (let s := storePicking;
      (s.crane 2).state = .busy ∧ (s.crane 2).order = some (orderOf .store (some 127) none false) ∧
      s.job 127 = some putaway7 ∧ (s.bin 7).state = .atPort 2 (some x2) ∧ (s.crane 2).overflow = []) ∧
    (let s := shiftPicking;
      (s.crane 2).order = some (orderOf .shift (some 127) none false) ∧ s.job 127 = some shift7 ∧
      (s.bin 7).state = .stored ⟨2, .left, 1, 1⟩ ∧ (s.slot ⟨2, .left, 1, 1⟩).state = .occupied 7 ∧
      (s.slot x2).state = .free ∧ (s.crane 2).buffer = []) := by decide +kernel
theorem witness_Done_stores : ∀ cs, cs = [] ∨ cs = [⟨7, .single, 5, 3, 9⟩] →
    (State.NothingWaits { storeDone cs with clu.claims := [] }) ∧
    let s := storeDone cs
    s.clu.claims = cs ∧ (s.crane 2).state = .busy ∧
    (s.crane 2).order = some (orderOf .store (some 127) none true) ∧
    (orderOf .store (some 127) none true).isPicked = true ∧ s.job 127 = some putaway7 ∧
    (s.bin 7).state = .onCrane (some x2) ∧ (s.slot x2).state = .reserved 7 ∧ (s.slot x2).held = none ∧
    127 ∈ (s.queue 2).jobs ∧ (s.queue 2).putback ≠ some 127 ∧ (s.queue 2).used ≤ 32 ∧
    (s.queue 2).state = .stopped ∧ s.zoneNormal 2 = true ∧ s.authority = .library ∧ (s.crane 2).resume = none ∧
    (s.crane 2).selected ≠ some 127 ∧ s.rsc.settings.restIdle = 0 := by
  intro cs h; obtain rfl | rfl := h <;> exact ⟨waits_of (by decide +kernel), by decide +kernel⟩

/-- A2's crane BUSY with the order of a VERIFY of bin 7. -/
def verifying : State :=
  let s := (storing 7 x2 (.job 127)).setJob 127 { verifyJob 7 x2 0 with active := true }
  let s := stopped (s.setQueue 2 { s.queue 2 with jobs := [127] }) 2
  craned s 2 (fun c => { c with state := .busy, order := some (orderOf .verify (some 127) (some x2) false) })

theorem witness_Verified : verifying.NothingWaits ∧ (verifying.crane 2).state = .busy ∧
    (verifying.crane 2).order = some (orderOf .verify (some 127) (some x2) false) ∧
    verifying.job 127 = some { verifyJob 7 x2 0 with active := true } ∧ (verifying.crane 2).resume = none ∧
    (verifying.slot x2).held = none ∧ (verifying.bin 7).state = .stored x2 ∧ (verifying.bin 7).owner = .job 127 ∧
    (verifying.queue 2).state = .stopped ∧ (verifying.queue 2).putback ≠ some 127 ∧ 127 ∈ (verifying.queue 2).jobs ∧
    verifying.zoneNormal 2 = true ∧ verifying.authority = .library ∧ verifying.rsc.settings.restIdle = 0 ∧
    (verifying.crane 2).selected ≠ some 127 :=
  ⟨waits_of (by decide +kernel), by decide +kernel⟩
theorem witness_Aborted :
    let s := zoned (craned verifying 2 (fun c => { c with state := .aborting })) 2 (fun r => { r with
      state := .securing })
    (s.crane 2).order = some (orderOf .verify (some 127) (some x2) false) ∧
    s.job 127 = some { verifyJob 7 x2 0 with active := true } ∧ (s.crane 2).resume = none ∧
    (s.crane 2).state = .aborting ∧ (s.queue 2).state ≠ .stopping ∧ s.zoneNormal 2 = false := by decide +kernel

/-- A2's crane ABORTING with the bin of FETCH 127 on its forks, its zone SECURING. -/
def stranding : State :=
  let s := craned haltedLoaded 2 (fun c => { c with state := .aborting })
  zoned s 2 (fun r => { r with state := .securing })

theorem witness_Stranding : stranding.NothingWaits ∧ stranding.NoneAvailable ∧
    (stranding.crane 2).state = .aborting ∧
    (stranding.crane 2).order = some (orderOf .retrieve (some 127) (some x2) true) ∧
    (orderOf .retrieve (some 127) (some x2) true).isPicked = true ∧
    stranding.job 127 = some (fetchOf 7 (some 2) (.slot x2) 5 true) ∧ (stranding.bin 7).state = .onCrane none ∧
    (stranding.bin 7).owner = .job 127 ∧ (stranding.slot x2).state = .free ∧ (stranding.slot x2).held = none ∧
    127 ∈ (stranding.queue 2).jobs ∧ (stranding.queue 2).putback = none ∧ (stranding.queue 2).used ≤ 32 ∧
    (stranding.queue 2).state ≠ .stopping ∧
    stranding.zoneNormal 2 = false ∧ (stranding.crane 2).resume = none ∧
    (stranding.crane 2).selected ≠ some 127 ∧ (∀ v, (stranding.station v).isDraining = false) ∧
    stranding.svp.notices.length < 64 :=
  ⟨waits_of (by decide +kernel), none_of (by decide +kernel), by decide +kernel⟩

/-- The page of hold 9 after the ABORTED of FETCH 127, of some origin, with bin 7 on the forks. -/
def strandedPages (own : Origin) (st : PageState) : List Page :=
  let s := stranding.setJob 127 { fetchOf 7 (some 2) (.slot x2) 5 true with origin := own }
  match exec (.aborted 2 255 ⟨0, 0⟩ true) { s with circ.pages := [⟨9, 0, 7, st⟩] } with
  | .next t => t.circ.pages
  | .fault _ | .refused _ => []

/-- R154, R181: the page for which the stranded FETCH was made is held for the zone; one that shares the FETCH of
another origin is UNPLACED (log 58). -/
theorem test_stranding_reaches_the_pages :
    strandedPages (.page 9) (.onJob 127) = [⟨9, 0, 7, .held 2⟩] ∧
    strandedPages .single (.shared 127) = [⟨9, 0, 7, .unplaced⟩] := by decide +kernel

theorem witness_ReadyParkedRestedFault :
    (wing.crane 3).state = .down ∧ (wing.crane 3).resume = none ∧ wing.zoneNormal 3 = true ∧
    wing.authority = .library ∧ ((stopped wing 3).queue 3).state = .stopped ∧ wing.rsc.settings.restIdle = 0 ∧
    (zoned wing 3 (fun r => { r with state := .secured })).zoneNormal 3 = false ∧
    ((craned (zoned wing 3 (fun r => { r with state := .secured })) 3 (fun c => { c with state := .parking })).crane
      3).state = .parking ∧
    ((zoned wing 3 (fun r => { r with state := .secured })).zone 3).parkTimer = none ∧
    (zoned wing 3 (fun r => { r with state := .secured })).canOrder 3 = false ∧
    ((craned (stopped wing 3) 3 (fun c => { c with state := .idle, restOutstanding := true })).crane 3).state = .idle ∧
    ((craned (stopped wing 3) 3 (fun c => { c with state := .idle, restOutstanding := true })).crane
      3).restOutstanding = true := by decide +kernel
theorem witness_CraneTimers :
    let s := craned wing 3 (fun c => { c with
      state := .busy, acceptTimer := some 0, readyTimer := some 1,
      order := some (orderOf .retrieve none none false) })
    (s.crane 3).state = .busy ∧ (s.crane 3).acceptTimer = some 0 ∧ Tick.reached 0 s.svp.tick = true ∧
    (s.queue 3).state ≠ .stopping ∧ Tick.reached 1 s.svp.tick = false ∧
    (s.crane 3).order = some (orderOf .retrieve none none false) ∧
    Tick.reached (orderOf .retrieve none none false).deadline s.svp.tick = true ∧
    (wing.crane 3).state = .down ∧ (wing.crane 3).readyTimer = some 200 ∧
    Tick.reached 200 (at32 wing 200).svp.tick = true ∧
    ((craned wing 3 (fun c => { c with state := .idle, restTimer := some 0 })).crane 3).restTimer = some 0 := by
  decide +kernel

/-! ### Witnesses: stations and batches -/

/-- A station in a state. -/
def stationed (s : State) (u : StationNo) (st : StationState) : State :=
  s.setStation u { s.station u with state := st }

theorem witness_Stations : Served rq wing ∧ wing.NoneAvailable ∧ station? 5 = some 5 ∧
    (wing.station 5).state = .normal .closed ∧ (5 : StationNo) ≠ fillStation ∧
    ((stationed wing 5 (.normal .opened)).station 5).state = .normal .opened ∧
    ((stationed wing 5 (.normal .opened)).station 5).isClear = true ∧
    ((stationed (showing wing 7 5 1) 5 (.normal .opened)).station 5).isClear = false ∧
    ((stationed wing 5 (.fireHold .draining)).station 5).state = .fireHold .draining :=
  ⟨served_of (by decide +kernel), none_of (by decide +kernel), by decide +kernel⟩
theorem witness_Stations_fill : station? 4 = some 4 ∧ (4 : StationNo) = fillStation ∧
    ∀ s, s = wing ∨ s = storing 7 x2 .none → Served rq s ∧ s.NoneAvailable ∧
      (s.station 4).state = .normal .closed ∧ (∀ p b, (s.position 4 p).content ≠ .bin b) ∧ s.riu.fills = [] ∧
      Tab.wf s.rsc.bins ∧ s.bestFill = (if s = wing then none else some 7) ∧
      (∀ e ∈ s.rsc.bins, e.1 ≠ 7 → s.qualifies e.1 e.2 = false) ∧ s.freeJob = some 0 ∧ (s.queue 2).used < 32 := by
  have h : ∀ p, (wing.position 4 p).content = .empty ∧ ((storing 7 x2 .none).position 4 p).content = .empty := by
    decide +kernel
  refine ⟨rfl, rfl, ?_⟩
  rintro s (rfl | rfl)
  · exact ⟨served_of (by decide +kernel), none_of (by decide +kernel), by decide +kernel,
      (fun p b e => by rw [(h p).1] at e; cases e), by decide +kernel⟩
  · exact ⟨served_of (by decide +kernel), none_of (by decide +kernel), by decide +kernel,
      (fun p b e => by rw [(h p).2] at e; cases e), by decide +kernel⟩
/-- Of bins 7, 8 and 9, each STORED and free, 8 and 9 have the largest free capacity: the lower number is best. -/
theorem witness_bestFill :
    let s := ((wing.setBin 7 ((binAs (.stored x2) .none).add 0 1)).setBin 8 (binAs (.stored x0) .none)).setBin 9
      (binAs (.stored xl) .none)
    Tab.wf s.rsc.bins ∧ s.bestFill = some 8 := by decide +kernel

/-- Bin 7 presented at P1 of S5 in a wing with A0 alone in service. -/
def releasing : State := showing oneAisle 7 5 1

theorem witness_Release : Served rq releasing ∧ releasing.svp.mountState = .mounted ∧ station? 5 = some 5 ∧
    pos? 1 = some 1 ∧ (releasing.position 5 1).content = .bin 7 ∧ (releasing.bin 7).state = .presented 5 1 ∧
    (releasing.station 5).inHold = false ∧ (releasing.station 5).isDraining = false ∧
    (5 : StationNo) ≠ fillStation ∧ releasing.oldestClaim 7 = none ∧ releasing.pressed 5 = some (1, 7) :=
  ⟨served_of (by decide +kernel), by decide +kernel⟩
theorem witness_Release_slot : releasing.wingSearch .standard .general allAisles = some (x0, 0) := by
  decide +kernel
theorem witness_Release_no_slot :
    State.wingSearch { releasing with rsc.inService := Vector.replicate 4 false } .standard .general allAisles =
      none := by
  decide +kernel

/-- Bin 7 at P1 of S5 with a claim for S0, which is OPEN. -/
def transferring : State :=
  { stationed (showing wing 7 5 1) 0 (.normal .opened) with clu.claims := [⟨7, .single, 0, 3, 9⟩] }

theorem witness_Transfer : Served rq transferring ∧
    State.NothingWaits { transferring with clu.claims := [] } ∧ (transferring.position 5 1).content = .bin 7 ∧
    (transferring.bin 7).state = .presented 5 1 ∧ (transferring.station 5).inHold = false ∧
    (transferring.station 5).isDraining = false ∧ transferring.oldestClaim 7 = some ⟨7, .single, 0, 3, 9⟩ ∧
    transferring.freeJob = some 0 ∧ (transferring.station 0).isOpen = true ∧
    (transferring.station 0).lane.length < 4 :=
  ⟨served_of (by decide +kernel), waits_of (by decide +kernel), by decide +kernel⟩

/-- Bin 7 at P1 of S4, its fill residence over, with the aisles in service or none. -/
def fillOver (on : Bool) : State :=
  let s := at32 (showing wing 7 4 1) 720000
  { s with rsc.inService := #v[on, false, false, false], riu.fills := [⟨7, .presented 1⟩] }

/-- The limit of 1 minute is reached at S4 outside FIRE_HOLD, where it was 30 minutes. -/
theorem witness_Settings_fill : let s := residing fillStation false
    Served rq s ∧ (s.position 4 1).restart.or (s.position 4 1).arrival = some 0 ∧
    (s.position 4 1).deadline = some 180000 ∧ (∀ q, q ≠ 1 → (s.position 4 q).deadline = none) ∧
    Tick.reached (BitVec.ofNat 32 (6000 * max 1 (min 1 120))) s.svp.tick = true ∧
    (s.station fillStation).inHold = false :=
  ⟨served_of (by decide +kernel), by decide +kernel⟩
theorem witness_FillRelease : ∀ on, ((fillOver on).position fillStation 1).content = .bin 7 ∧
    ((fillOver on).bin 7).state = .presented fillStation 1 ∧
    ((fillOver on).station fillStation).state = .normal .closed ∧
    (((fillOver on).position fillStation 1).deadline).any (fun d => d.reached (fillOver on).svp.tick) = true ∧
    (fillOver on).oldestClaim 7 = none ∧
    (fillOver on).wingSearch .standard .general allAisles = if on then some (x0, 0) else none := by decide +kernel

/-- Bin 7 in the first slot of A2, unowned, with S5 OPEN. -/
def fetchable : State := stationed (storing 7 x2 .none) 5 (.normal .opened)
/-- A claim on bin 7. -/
def claim7 : Claim := { bin := 7, claimant := .single, dest := 5, priority := 3, placed := 0 }

theorem witness_Fetch : Served rq fetchable ∧ station? 5 = some 5 ∧ target? (.bin 7) = some (.bin 7) ∧
    fetchable.authority = .library ∧ (fetchable.station 5).isOpen = true ∧ (5 : StationNo) ≠ fillStation ∧
    fetchable.resolveTarget (.bin 7) 5 = .ok 7 ∧ (fetchable.bin 7).state = .stored x2 ∧
    (fetchable.bin 7).owner = .none ∧ fetchable.oldestClaim 7 = none ∧ fetchable.freeJob = some 0 ∧
    (fetchable.queue 2).used < 32 ∧ (fetchable.crane 2).available = false ∧
    State.oldestClaim { fetchable with clu.claims := List.replicate 31 claim7 } 7 ≠ none ∧
    (List.replicate 31 claim7).length < 32 ∧
    State.authority { wing with fiu.libraryClaim := false } ≠ .library ∧ fetchable.batchRecord = some 0 :=
  ⟨served_of (by decide +kernel), by decide +kernel, by decide +kernel, by decide +kernel, by decide +kernel,
    by decide +kernel, rfl, by decide +kernel⟩
theorem witness_Fetch_there :
    let s := stationed (showing wing 7 5 1) 5 (.normal .opened)
    Served rq s ∧ s.resolveTarget (.bin 7) 5 = .ok 7 ∧ (s.bin 7).state = .presented 5 1 :=
  ⟨served_of (by decide +kernel), rfl, by decide +kernel⟩
theorem witness_Fetch_on_its_way :
    let s := stationed fetching 5 (.normal .opened)
    Served rq s ∧ s.resolveTarget (.bin 7) 5 = .ok 7 ∧ (s.bin 7).owner = .job 127 ∧
    s.job 127 = some (fetchOf 7 (some 2) (.slot x2) 5 false) ∧ ∀ p, (s.bin 7).state ≠ .presented 5 p :=
  ⟨served_of (by decide +kernel), rfl, by decide +kernel⟩
theorem witness_Fetch_owned_or_moving :
    let s := stationed fetching 0 (.normal .opened)
    let r := stationed (wing.setBin 7 (binAs (.returning 3 (some xl)) .none)) 0 (.normal .opened)
    Served rq s ∧ s.authority = .library ∧ (s.station 0).isOpen = true ∧ s.resolveTarget (.bin 7) 0 = .ok 7 ∧
    (s.bin 7).state = .stored x2 ∧ (s.bin 7).owner = .job 127 ∧
    s.job 127 = some (fetchOf 7 (some 2) (.slot x2) 5 false) ∧
    (fetchOf 7 (some 2) (.slot x2) 5 false).dest ≠ .station 0 ∧ s.clu.claims.length < 32 ∧
    Served rq r ∧ r.resolveTarget (.bin 7) 0 = .ok 7 ∧ (r.bin 7).state = .returning 3 (some xl) ∧
    (r.bin 7).owner = .none :=
  ⟨served_of (by decide +kernel), by decide +kernel, by decide +kernel, rfl, by decide +kernel, by decide +kernel,
    by decide +kernel, by decide +kernel, by decide +kernel, served_of (by decide +kernel), rfl, by decide +kernel⟩
theorem witness_Paced :
    let s := fetchable.setBin 8 (binAs (.stored x0) .none)
    Served rq s ∧ target? (.bin 7) = some (.bin 7) ∧ target? (.bin 8) = some (.bin 8) ∧ s.authority = .library ∧
    (s.station 5).isOpen = true ∧ s.resolveTarget (.bin 7) 5 = .ok 7 ∧ s.resolveTarget (.bin 8) 5 = .ok 8 ∧
    (s.bin 7).state = .stored x2 ∧ (s.bin 7).owner = .none ∧ s.oldestClaim 7 = none ∧ s.freeJob = some 0 ∧
    (s.queue 2).used < 32 ∧ (s.crane 2).available = false ∧ s.batchRecord = some 0 :=
  ⟨served_of (by decide +kernel), by decide +kernel, by decide +kernel, by decide +kernel, by decide +kernel, rfl,
    rfl, by decide +kernel⟩
theorem witness_CancelBatch :
    let s := wing.setBatch 7 smallBatch
    Served rq s ∧ 7 < 8 ∧ s.batch 7 = some smallBatch ∧ smallBatch.state = .active ∧ s.dsp.jobs = [] ∧
    s.clu.claims = [] := ⟨served_of (by decide +kernel), by decide +kernel⟩

/-- Bin 7 in the lane of a station under job 127 of some origin: a direct transfer's job, with no aisle, or that of a
FETCH which A2's crane has brought out. -/
def awaited (crane : Bool) (t : StationNo) (o : Origin) : State :=
  let s := (wing.setBin 7 (binAs (.enRoute t) (.job 127))).setJob 127 { fetchOf 7 (if crane then some 2 else none)
    (if crane then .slot x2 else .transfer) t true with origin := o }
  s.setStation t { s.station t with lane := [7] }
/-- The same, with some claims, batches, pages and fill entries that wait. -/
def awaiting (s : State) (claims : List Claim) (batches : List (Nat × Batch)) (pages : List Page)
    (fills : List FillEntry) : State :=
  { s with clu.claims := claims, stu.batches := batches, circ.pages := pages, riu.fills := fills }

/-- Bin 7 is awaited at S5, or at S4 as a fill bin, under the one job 127, which is out of its aisle; so it is with
anything that waits. -/
theorem witness_StationArrivals_job (crane : Bool) (t : StationNo) (o : Origin) (ht : t = 5 ∨ t = 4) : ∃ r,
    (awaited crane t o).job 127 = some r ∧ r.kind = .fetch ∧ r.bin = 7 ∧ r.dest = .station t ∧ r.origin = o ∧
    r.aisle = (if crane then some 2 else none) ∧
    ∀ c b p f, (awaiting (awaited crane t o) c b p f).OutOfAisle 127 r := by
  refine ⟨_, rfl, rfl, rfl, rfl, rfl, rfl, fun _ _ _ _ a ha => ?_⟩
  cases crane
  · cases ha
  · obtain rfl : (2 : Aisle) = a := Option.some.inj ha
    obtain rfl | rfl := ht <;> exact ⟨List.not_mem_nil, nofun, nofun, nofun, nofun⟩

theorem witness_StationArrivals : ∀ crane, let s := awaited crane 5 .single
    s.NothingWaits ∧ s.NoneAvailable ∧ s.svp.mountState = .mounted ∧ (s.bin 7).state = .enRoute 5 ∧
    (s.bin 7).owner = .job 127 ∧ 7 ∈ (s.station 5).lane ∧ (s.position 5 1).content = .empty ∧
    (5 : StationNo) ≠ fillStation ∧ (s.station 5).isDraining = false ∧ s.svp.notices.length < 63 ∧
    State.reset.svp.mountState ≠ .mounted ∧ State.reset.svp.keptStation.length < 32 ∧
    State.reset.svp.keptPort.length < 32 := by
  intro crane; cases crane <;> exact ⟨waits_of (by decide +kernel), none_of (by decide +kernel), by decide +kernel⟩

/-- A batch of S5 with one entry, which waits for bin 7. -/
def oneEntry (e : EntryState) : Batch :=
  { smallBatch with entries := [⟨.bin 7, some 7, true, e⟩] }

/-- What may wait for bin 7 at its arrival, for a job of either kind: a claim bound for the station or for another, a
batch entry the job or a claim serves, a page on the job or sharing it, and a fill entry. -/
theorem witness_StationArrivals_waiting : ∀ crane, ∀ s,
    s = awaiting (awaited crane 5 .single) [claim7] [] [] [] ∨
    s = awaiting (awaited crane 5 .single) [{ claim7 with dest := 0 }] [] [] [] ∨
    s = awaiting (awaited crane 5 (.batch 7 0)) [] [(7, oneEntry .queued)] [] [] ∨
    s = awaiting (awaited crane 5 .single) [] [(7, oneEntry .claimed)] [] [] ∨
    s = awaiting (awaited crane 5 (.page 16383)) [] [] [⟨16383, 0, 7, .onJob 127⟩] [] ∨
    s = awaiting (awaited crane 5 .single) [] [] [⟨16383, 0, 7, .shared 127⟩] [] ∨
    s = awaiting (awaited crane 4 .fill) [] [] [] [⟨7, .placed⟩] →
    State.NothingWaits { s with circ.pages := [], riu.fills := [], clu.claims := [], stu.batches := [] } ∧
    s.NoneAvailable ∧ s.svp.mountState = .mounted ∧ (s.bin 7).owner = .job 127 ∧ s.svp.notices.length < 63 ∧
    ∃ u, u = (if s.riu.fills = [] then serviceStation else fillStation) ∧ (s.bin 7).state = .enRoute u ∧
      7 ∈ (s.station u).lane ∧ (s.position u 1).content = .empty ∧ (s.station u).isDraining = false ∧
      (s.station u).isOpen = false := by
  intro crane s h
  cases crane <;> obtain rfl | rfl | rfl | rfl | rfl | rfl | rfl := h <;>
    exact ⟨waits_of (by decide +kernel), none_of (by decide +kernel), by decide +kernel⟩
theorem witness_StationArrivals_entries : ∀ e, e = .queued ∨ e = .claimed →
    (oneEntry e).station = 5 ∧ (oneEntry e).state = .active ∧ (oneEntry e).entries = [⟨.bin 7, some 7, true, e⟩] ∧
    e.outstanding = true ∧ claim7.bin = 7 ∧ claim7.claimant = .single ∧ claim7.dest = 5 := by
  rintro e (rfl | rfl) <;> decide
theorem witness_StationArrivals_drain : ∀ crane,
    let r := State.setItem (stationed (awaiting (awaited crane 4 .fill) [] [] [] [⟨7, .placed⟩]) 4 (.normal .opened)) 0
      (itemAs .inTray [])
    let s : State := { r with rsc.tray := [0], rsc.settings.station.fillThreshold := 0 }
    State.NothingWaits { s with circ.pages := [], riu.fills := [], clu.claims := [], stu.batches := [] } ∧
    s.NoneAvailable ∧ (s.station 4).isOpen = true ∧ s.frontNormal = true ∧ s.rsc.tray = [0] ∧
    s.item 0 = some (itemAs .inTray []) ∧ s.firstWaiting (itemAs .inTray []) = none ∧
    (s.bin 7).autoPlace 40 = some 0 ∧ s.rsc.settings.station.fillThreshold = 0 ∧ 7 ∈ (s.station 4).lane := by
  intro crane; cases crane <;> exact ⟨waits_of (by decide +kernel), none_of (by decide +kernel), by decide +kernel⟩
theorem witness_StationArrivals_misroute : ∀ crane, let s := awaited crane 5 .single
    (0 : StationNo) ≠ 5 ∧ 7 ∉ (s.station 0).lane ∧ (s.position 0 1).content = .empty ∧
    (0 : StationNo) ≠ fillStation ∧ (∀ w, (s.station w).isDraining = false) ∧ s.svp.notices.length < 63 := by
  intro crane; cases crane <;> decide +kernel
theorem witness_StationArrivals_found : losing.Quiet 16383 ∧ (losing.bin 16383).state = .uncertain ∧
    16383 ∉ (losing.station 5).lane ∧ (∀ e, (losing.position 5 1).content ≠ .bin e) ∧ losing.stu.batches = [] :=
  ⟨quiet_of (by decide +kernel), by decide +kernel, by decide +kernel, (by intro e h; cases h), by decide +kernel⟩

/-- Bin 7 recorded at P1 of S5, and an UNCERTAIN bin 8. -/
def conflicting : State := (showing wing 7 5 1).setBin 8 (binAs .uncertain .none)

theorem witness_StationArrivals_conflict : conflicting.NothingWaits ∧ conflicting.NoneAvailable ∧
    conflicting.svp.mountState = .mounted ∧ (conflicting.position 5 1).content = .bin 7 ∧
    (conflicting.bin 7).state = .presented 5 1 ∧ (conflicting.bin 7).owner = .station 5 ∧
    Tab.find conflicting.clu.fireJobs 7 = none ∧ (conflicting.bin 8).state = .uncertain ∧
    8 ∉ (conflicting.station 5).lane ∧ (∀ w, 7 ∉ (conflicting.station w).lane) ∧
    (∀ c, 7 ∉ (conflicting.crane c).buffer) ∧ (conflicting.station 5).isDraining = false :=
  ⟨waits_of (by decide +kernel), none_of (by decide +kernel), by decide +kernel⟩
theorem witness_StationArrivals_unread : wing.svp.mountState = .mounted ∧
    ∀ b, (wing.position 0 0).content ≠ .bin b := ⟨by decide +kernel, by intro b h; cases h⟩
theorem witness_StationArrivals_timers :
    let s := at32 (showing wing 7 5 1) 120000
    (s.position 5 1).content = .bin 7 ∧ (s.position 5 1).deadline = some 120000 ∧
    Tick.reached 120000 s.svp.tick = true ∧ (wing.position 5 1).deadline = none := by decide +kernel
theorem witness_StationArrivals_lamp :
    let s := at32 (unread.setStation 0 { unread.station 0 with lamp := .lit 25 }) 25
    (s.station 0).lamp = .lit 25 ∧ Tick.reached 25 s.svp.tick = true ∧ (s.position 0 0).attention = true := by
  decide +kernel
theorem witness_PortArrivals :
    let s := craned (wing.setBin 16383 (binAs (.returning 3 (some xl)) .none)) 3 (fun c => { c with buffer := [1] })
    s.svp.mountState = .mounted ∧ (s.bin 16383).state = .returning 3 (some xl) ∧ xl.aisle = 3 ∧
    16383 ∉ (s.crane 3).buffer ∧ 16383 ∉ (s.crane 3).overflow ∧ (s.crane 3).buffer.length < 2 ∧
    s.zoneNormal 3 = true ∧ s.freeJob = some 0 ∧ (s.queue 3).used < 32 ∧ (s.crane 3).available = false := by
  decide +kernel


/-- Bin 16,383 RETURNING to A3 with some reservation, and some bins in the buffer of A3's port. -/
def returning (x : Option SlotAddr) (buffer : List Nat) : State :=
  craned (oneAisle.setBin 16383 (binAs (.returning 3 x) .none)) 3 (fun c => { c with buffer := buffer })

theorem witness_PortArrivals_unreserved : ((returning none [1]).bin 16383).state = .returning 3 none ∧
    ((returning none [1]).crane 3).buffer.length < 2 ∧ (returning none [1]).zoneNormal 3 = true ∧
    ((returning none [1]).bin 16383).climate = .general ∧
    (returning none [1]).aisleSearch .standard .general 3 = none ∧
    (let s := (returning none [1]).setBin 16383 { (returning none [1]).bin 16383 with climate := .controlled };
      (s.bin 16383).climate = .controlled ∧
      s.aisleSearch .standard .controlled 3 = some ⟨3, .left, 0, 0⟩ ∧ s.freeJob = some 0) := by decide +kernel
theorem witness_PortArrivals_fire_and_overfill :
    (zoned (returning (some xl) [1, 2]) 3 (fun r => { r with state := .secured })).zoneNormal 3 = false ∧
    ((returning (some xl) [1, 2]).bin 16383).state = .returning 3 (some xl) ∧
    (returning (some xl) [1, 2]).zoneNormal 3 = true ∧ 2 ≤ ((returning (some xl) [1, 2]).crane 3).buffer.length ∧
    16383 ∉ ((returning (some xl) [1, 2]).crane 3).buffer ∧
    16383 ∉ ((returning (some xl) [1, 2]).crane 3).overflow := by
  decide +kernel

theorem witness_PortArrivals_stopping :
    let s0 := returning (some xl) [1, 2]
    let s := s0.setQueue 3 { s0.queue 3 with state := .stopping, reason := some .host }
    (s.queue 3).state = .stopping ∧ s.svp.mountState = .mounted ∧ s.zoneNormal 3 = true ∧
    (s.bin 16383).state = .returning 3 (some xl) ∧ 2 ≤ (s.crane 3).buffer.length ∧
    16383 ∉ (s.crane 3).buffer ∧ 16383 ∉ (s.crane 3).overflow := by decide +kernel

/-! ### Witnesses: lending -/

theorem witness_Borrowers : wing.svp.resp = none ∧ rq.tag ≠ 0 ∧ rq.lengthOk = true ∧
    wing.svp.mountState ≠ .recordFault ∧ State.reset.svp.mountState = .mounting := by decide +kernel

/-- A wing whose calendar has a mark, with a turnover at a record. -/
def turning (cursor : Nat) : State := { wing with
  rsc.today := 5, svp.longOp := some .turnover, circ.turnover := some ⟨5, cursor, 0⟩ }

theorem witness_Calendar : Served rq wing ∧ 1 ≤ 64 ∧ 64 ≤ 64 ∧ 448 ≤ 65534 ∧ wing.rsc.calBase ≤ 448 ∧
    448 + 64 ≤ wing.rsc.calBase + 512 ∧ wing.runLength 0 31 < 32 ∧ 0 + 31 ≤ wing.rsc.calBase + 512 ∧
    65534 < 65535 ∧ 0 ≤ wing.rsc.today ∧ wing.rsc.today < 65534 ∧ wing.svp.longOp = none ∧
    (turning 0).svp.longOp ≠ none ∧ wing.circ.turnover = none :=
  ⟨served_of (by decide +kernel), by decide +kernel⟩
theorem witness_Turnover : (turning 16382).circ.turnover = some ⟨5, 16382, 0⟩ ∧ 16382 < 16383 ∧
    (turning 16383).circ.turnover = some ⟨5, 16383, 0⟩ ∧ (turning 16383).hold 16383 = none ∧
    ((turning 16382).setHold 16382 ⟨0, 1, 0, .ready 5⟩).hold 16382 = some ⟨0, 1, 0, .ready 5⟩ ∧
    Hold.expires ⟨0, 1, 0, .ready 5⟩ 5 = none := by decide +kernel
theorem witness_Turnover_expiry :
    let s := ((turning 16382).setHold 16382 ⟨0, 1, 0, .ready 4⟩).setItem 0 (itemAs (.holdShelf 5) [16382])
    s.circ.turnover = some ⟨5, 16382, 0⟩ ∧ s.hold 16382 = some ⟨0, 1, 0, .ready 4⟩ ∧ 4 < 5 ∧
    s.item 0 = some (itemAs (.holdShelf 5) [16382]) ∧ s.circ.pages = [] ∧ s.svp.notices.length < 64 := by
  decide +kernel
/-- Its READY hold 16,382 expires, and hold 16,383 of borrower 2 waits behind it, on the shelf of S3. -/
theorem witness_Turnover_next :
    let s := (((turning 16382).setHold 16382 ⟨0, 1, 0, .ready 4⟩).setHold 16383 ⟨0, 2, 3, .waiting⟩).setItem 0
      (itemAs (.holdShelf 3) [16382, 16383]) |>.setBorrower 2 (reader 0 1)
    s.circ.turnover = some ⟨5, 16382, 0⟩ ∧ s.rsc.today = 5 ∧ s.hold 16382 = some ⟨0, 1, 0, .ready 4⟩ ∧ 4 < 5 ∧
    s.item 0 = some (itemAs (.holdShelf 3) [16382, 16383]) ∧ 16382 ∉ [16383] ∧
    s.hold 16383 = some ⟨0, 2, 3, .waiting⟩ ∧ s.borrower 2 = some (reader 0 1) ∧ s.circ.pages = [] ∧
    s.svp.notices.length < 63 := by decide +kernel
theorem witness_CalendarBase :
    let s : State := { wing with rsc.calBase := 1 }
    s.svp.resp = none ∧ s.svp.mountState = .mounted ∧ 65023 < 65024 ∧ 0 < s.rsc.calBase ∧ s.rsc.calBase < 65023 ∧
    1 = s.rsc.calBase := by decide +kernel
theorem witness_DueDays : 65534 < 65535 ∧ 1 ≤ (wing.policyRow 0).generalDays ∧
    1 ≤ (wing.policyRow 3).shortDays ∧ 1 ≤ wing.rsc.settings.recalls.minLoan ∧ 65534 < 65535 ∧
    65534 < (⟨0, 1, 65534, 65535, 0, false⟩ : Loan).due := by decide +kernel
theorem witness_Checkout :
    let s := (having (.atDesk 5) []).setBorrower 16777215 (reader 19 0)
    Served rq s ∧ 1 ≤ 16777215 ∧ accession? (accessionChars 0) = some 0 ∧ s.item 0 = some (itemAs (.atDesk 5) []) ∧
    (itemAs (.atDesk 5) []).cls.lendable = true ∧ s.borrower 16777215 = some (reader 19 0) ∧
    19 < (s.policyRow 0).maxLoans ∧ s.rsc.loans.length < 65536 :=
  ⟨served_of (by decide +kernel), by decide +kernel⟩

/-- Item 0 on loan 65,535 to borrower 1. -/
def lent (q : List Nat) (recalled : Bool) : State :=
  ((having (.onLoan 65535) q).setLoan 65535 ⟨0, 1, 0, 1, 2, recalled⟩).setBorrower 1 (reader 1 0)

theorem witness_Renew : Served rq (lent [] false) ∧ accession? (accessionChars 0) = some 0 ∧
    (∀ k, (lent [] k).item 0 = some (itemAs (.onLoan 65535) []) ∧
      (lent [] k).loan 65535 = some ⟨0, 1, 0, 1, 2, k⟩ ∧ (lent [] k).borrower 1 = some (reader 1 0) ∧
      (lent [] k).hasWaiting (itemAs (.onLoan 65535) []) = false ∧
      (lent [] k).firstWaiting (itemAs (.onLoan 65535) []) = none) ∧
    2 < ((lent [] false).policyRow 0).maxRenewals ∧
    ((lent [0] false).setHold 0 ⟨0, 2, 0, .waiting⟩).hasWaiting (itemAs (.onLoan 65535) [0]) = true :=
  ⟨served_of (by decide +kernel), by decide +kernel⟩
theorem witness_LoanQueries : Served rq (lent [] false) ∧ Tab.wf (lent [] false).rsc.loans ∧
    (lent [] false).earliest (fun _ => true) = some (65535, ⟨0, 1, 0, 1, 2, false⟩) ∧
    wing.earliest (fun _ => true) = none ∧ (lent [] false).circ.listing = none ∧
    (lent [] false).borrower 1 = some (reader 1 0) ∧ 65535 < 65536 ∧
    (lent [] false).loan 65535 = some ⟨0, 1, 0, 1, 2, false⟩ ∧ 65472 + 64 ≤ 65536 :=
  ⟨served_of (by decide +kernel), by decide +kernel⟩

/-! ### Witnesses: holds and returns -/

theorem witness_PlaceHold :
    let s := (having .missing []).setBorrower 16777215 (reader 0 4)
    Served rq s ∧ s.item 0 = some (itemAs .missing []) ∧ s.borrower 16777215 = some (reader 0 4) ∧
    4 < (s.policyRow 0).maxHolds ∧ s.holdOf (itemAs .missing []) 16777215 = none ∧ s.rsc.holds.length < 16384 :=
  ⟨served_of (by decide +kernel), by decide +kernel⟩
theorem witness_PlaceHold_recalls :
    let s := (lent [] false).setBorrower 2 (reader 0 0)
    Served rq s ∧ s.item 0 = some (itemAs (.onLoan 65535) []) ∧ s.loan 65535 = some ⟨0, 1, 0, 1, 2, false⟩ ∧
    1 ≠ 2 ∧ s.borrower 2 = some (reader 0 0) ∧ s.holdOf (itemAs (.onLoan 65535) []) 2 = none :=
  ⟨served_of (by decide +kernel), by decide +kernel⟩
theorem witness_CancelHold :
    let s := ((having .missing [16383]).setHold 16383 ⟨0, 1, 0, .waiting⟩).setBorrower 1 (reader 0 1)
    Served rq s ∧ s.item 0 = some (itemAs .missing [16383]) ∧ s.borrower 1 = some (reader 0 1) ∧
    s.holdOf (itemAs .missing [16383]) 1 = some (16383, ⟨0, 1, 0, .waiting⟩) ∧ s.pageOf 16383 = none ∧
    ∀ b c, (itemAs .missing [16383]).state ≠ .shelved b c :=
  ⟨served_of (by decide +kernel), by decide +kernel, by decide +kernel, by decide +kernel, by decide +kernel,
    by intro b c h; cases h⟩

/-- Item 0 on the tray, with nobody waiting or with hold 16,383 of borrower 2; borrower 1 has no hold. -/
def trayed (q : List Nat) : State :=
  let s := ((having .inTray q).setBorrower 1 (reader 0 0)).setBorrower 2 (reader 0 1)
  let s := if q = [] then s else s.setHold 16383 ⟨0, 2, 0, .waiting⟩
  { s with rsc.tray := [3, 0, 4] }

/-- The head of the queue after the new hold 0: the hold that waited, or the new one. -/
theorem witness_PlaceHold_tray : ∀ q, q = [] ∨ q = [16383] → let s := trayed q
    Served rq s ∧ s.item 0 = some (itemAs .inTray q) ∧ s.borrower 1 = some (reader 0 0) ∧
    0 < (s.policyRow 0).maxHolds ∧ s.holdOf (itemAs .inTray q) 1 = none ∧ s.rsc.holds.length < 16384 ∧
    Tab.lowestFree s.rsc.holds 0 = 0 ∧ (q ++ [0]).head? = some (if q = [] then 0 else 16383) ∧
    (q ≠ [] → s.hold 16383 = some ⟨0, 2, 0, .waiting⟩) ∧ s.borrower 2 = some (reader 0 1) := by
  rintro q (rfl | rfl) <;> exact ⟨served_of (by decide +kernel), by decide +kernel⟩

/-- Item 0 on the hold shelf of S3 for READY hold 16,382 of borrower 1, with the holds behind it. -/
def held (rest : List Nat) : State :=
  let s := ((having (.holdShelf 3) (16382 :: rest)).setHold 16382 ⟨0, 1, 0, .ready 9⟩).setBorrower 1 (reader 0 1)
  let s := s.setBorrower 2 (reader 0 1)
  if rest = [] then s else s.setHold 16383 ⟨0, 2, 0, .waiting⟩

theorem witness_CancelHold_ready : ∀ rest, rest = [] ∨ rest = [16383] → let s := held rest
    Served rq s ∧ s.item 0 = some (itemAs (.holdShelf 3) (16382 :: rest)) ∧ s.borrower 1 = some (reader 0 1) ∧
    s.holdOf (itemAs (.holdShelf 3) (16382 :: rest)) 1 = some (16382, ⟨0, 1, 0, .ready 9⟩) ∧
    s.pageOf 16382 = none ∧ 16382 ∉ rest ∧ s.borrower 2 = some (reader 0 1) ∧
    (rest ≠ [] → s.hold 16383 = some ⟨0, 2, 0, .waiting⟩) := by
  rintro q (rfl | rfl) <;> exact ⟨served_of (by decide +kernel), by decide +kernel⟩

/-- Item 0 in compartment 7 of bin 7, which is as a state gives it, and borrower 1 with no hold. -/
def shelvedIn7 (s : State) : State := (s.setItem 0 (itemAs (.shelved 7 7) [])).setBorrower 1 (reader 0 0)

theorem witness_PlaceHold_pages : ∀ s, s = showing wing 7 5 1 ∨ s = fetching ∨ s = storing 7 x2 .none ∨
      s = showing wing 7 0 1 →
    Served rq (shelvedIn7 s) ∧ (shelvedIn7 s).item 0 = some (itemAs (.shelved 7 7) []) ∧
    (shelvedIn7 s).borrower 1 = some (reader 0 0) ∧ 0 < ((shelvedIn7 s).policyRow 0).maxHolds ∧
    (shelvedIn7 s).holdOf (itemAs (.shelved 7 7) []) 1 = none ∧ (shelvedIn7 s).rsc.holds.length < 16384 ∧
    (∀ g ∈ (shelvedIn7 s).circ.pages, g.item ≠ 0 ∧ g.hold ≠ Tab.lowestFree (shelvedIn7 s).rsc.holds 0) ∧
    (shelvedIn7 s).clu.claims.length < 32 ∧ (shelvedIn7 s).freeJob = some 0 ∧ ((shelvedIn7 s).queue 2).used < 32 ∧
    ((shelvedIn7 s).crane 2).available = false := by
  rintro s (rfl | rfl | rfl | rfl) <;> exact ⟨served_of (by decide +kernel), by decide +kernel⟩
theorem witness_PlaceHold_page_places :
    ((shelvedIn7 (showing wing 7 5 1)).bin 7).state = .presented serviceStation 1 ∧
    (let s := shelvedIn7 fetching;
      (∀ p, (s.bin 7).state ≠ .presented serviceStation p) ∧ (s.bin 7).owner = .job 127 ∧
      s.job 127 = some (fetchOf 7 (some 2) (.slot x2) 5 false) ∧
      (fetchOf 7 (some 2) (.slot x2) 5 false).dest = .station serviceStation) ∧
    (let s := shelvedIn7 (storing 7 x2 .none);
      (∀ p, (s.bin 7).state ≠ .presented serviceStation p) ∧ (s.bin 7).state = .stored x2 ∧
      (s.bin 7).owner = .none ∧ s.oldestClaim 7 = none) ∧
    (let s := shelvedIn7 (showing wing 7 0 1);
      (∀ p, (s.bin 7).state ≠ .presented serviceStation p) ∧ (s.bin 7).state = .presented 0 1 ∧
      (s.bin 7).owner = .station 0) := by decide +kernel

/-- Item 0 SHELVED with a hold that waits and has a page, carried as a state gives it. -/
def paged (s : State) (st : PageState) : State :=
  { (((s.setItem 0 (itemAs (.shelved 7 7) [16383])).setBorrower 1 (reader 0 1)).setHold 16383
      ⟨0, 1, 0, .waiting⟩) with circ.pages := [⟨16383, 0, 7, st⟩] }
/-- The page's hold carried by a claim, and by QUEUED FETCH 127. -/
def pagedOnClaim : State :=
  { paged (showing wing 7 0 1) .onClaim with clu.claims := [⟨7, .page 16383, serviceStation, 1, 0⟩] }
def pagedOnJob : State :=
  (paged fetching (.onJob 127)).setJob 127 { fetchOf 7 (some 2) (.slot x2) 5 false with origin := .page 16383 }

theorem witness_CancelHold_pages : ∀ s, s = pagedOnClaim ∨ s = pagedOnJob →
    Served rq s ∧ State.NothingWaits { s with circ.pages := [], clu.claims := [] } ∧
    s.item 0 = some (itemAs (.shelved 7 7) [16383]) ∧ s.borrower 1 = some (reader 0 1) ∧
    s.holdOf (itemAs (.shelved 7 7) [16383]) 1 = some (16383, ⟨0, 1, 0, .waiting⟩) ∧
    (s.circ.pages.map (·.hold)) = [16383] := by
  rintro s (rfl | rfl) <;> exact ⟨served_of (by decide +kernel), waits_of (by decide +kernel), by decide +kernel⟩
theorem witness_CancelHold_carried :
    (pagedOnClaim.circ.pages.map (·.state)) = [.onClaim] ∧
    (pagedOnClaim.clu.claims.map (·.claimant)) = [.page 16383] ∧
    (pagedOnJob.circ.pages.map (·.state)) = [.onJob 127] ∧ pagedOnJob.clu.claims = [] ∧
    pagedOnJob.job 127 = some { fetchOf 7 (some 2) (.slot x2) 5 false with origin := .page 16383 } ∧
    (pagedOnJob.bin 7).owner = .job 127 ∧ 127 ∈ (pagedOnJob.queue 2).jobs ∧
    (pagedOnJob.queue 2).putback ≠ some 127 := by decide +kernel

theorem witness_PlaceHold_queued : ∀ s, s = pagedOnClaim ∨
      s = { paged (showing wing 7 5 1) .unplaced with circ.pages := [], circ.delivered := [(16383, 7)] } →
    let r := s.setBorrower 2 (reader 0 0)
    Served rq r ∧ r.item 0 = some (itemAs (.shelved 7 7) [16383]) ∧ r.borrower 2 = some (reader 0 0) ∧
    0 < (r.policyRow 0).maxHolds ∧ r.holdOf (itemAs (.shelved 7 7) [16383]) 2 = none ∧
    r.rsc.holds.length < 16384 ∧ ((∃ g ∈ r.circ.pages, g.item = 0) ∨
      (16383, 7) ∈ r.circ.delivered ∧ (r.bin 7).state = .presented serviceStation 1) := by
  rintro s (rfl | rfl) <;> exact ⟨served_of (by decide +kernel), by decide +kernel⟩

/-- R46, R154: the page of a bin made UNCERTAIN is UNPLACED, its claim stays, and it stands on that claim again when
the bin arrives at another station than S5. -/
theorem test_page_of_an_uncertain_bin :
    let s := (pagedOnClaim.begin.makeUncertain 7 .unknown .uncertain).st
    s.circ.pages.map (·.state) = [.unplaced] ∧ s.clu.claims = pagedOnClaim.clu.claims ∧
    ((s.begin.stationArrival 1 1 (some 7)).settle.circ.pages.map (·.state)) = [.onClaim] ∧
    (s.begin.stationArrival 1 1 (some 7)).settle.clu.claims = pagedOnClaim.clu.claims := by decide +kernel

/-- S4 OPEN, item 0 in a state. -/
def scanning (st : ItemState) : State := stationed (having st []) 4 (.normal .opened)

theorem witness_Scans : wing.scanStopped = true ∧ (scanning .inTray).scanStopped = false ∧
    label? (accessionChars 0) (crc (accessionChars 0)) = some 0 ∧ label? [] 0 = none ∧
    (stationed wing 4 (.normal .opened)).item 0 = none ∧ (stationed wing 4 (.normal .opened)).scanStopped = false ∧
    (scanning .inTray).item 0 = some (itemAs .inTray []) ∧ (itemAs .inTray []).cls.lendable = true ∧
    ({ itemAs .inTray [] with cls := .rare } : Item).cls.lendable = false := by decide +kernel

/-- Item 0 comes to a scan from each place it may leave: a desk, a loan, bin 7 that is no fill bin, and nowhere. -/
def scanFrom (st : ItemState) (q : List Nat) : State :=
  let s := stationed ((((having st q).setBin 7 ((binAs (.stored x2) .none).add 7 40)).setLoan 65535
    ⟨0, 1, 0, 1, 2, false⟩).setBorrower 1 (reader 1 0)) 4 (.normal .opened)
  if q = [] then s else (s.setHold 16383 ⟨0, 2, 3, .waiting⟩).setBorrower 2 (reader 0 1)
/-- Bin 8 as a fill bin at P1 of S4, and a full tray. -/
def withFill (s : State) : State :=
  { showing s 8 4 1 with riu.fills := [⟨8, .presented 1⟩], rsc.settings.station.fillThreshold := 0 }
def withTray (s : State) (n : Nat) : State := { s with rsc.tray := List.replicate n 1 }

theorem witness_Scans_routes : ∀ st, st = .atDesk 5 ∨ st = .onLoan 65535 ∨ st = .shelved 7 7 ∨ st = .missing →
    let waits := scanFrom st [16383]
    let fills := withFill (scanFrom st [])
    let trays := fun n => withTray (scanFrom st []) n
    (waits.scanStopped = false ∧ waits.item 0 = some (itemAs st [16383]) ∧
      waits.firstWaiting (itemAs st [16383]) = some (16383, ⟨0, 2, 3, .waiting⟩) ∧
      waits.borrower 2 = some (reader 0 1)) ∧
    (fills.scanStopped = false ∧ fills.item 0 = some (itemAs st []) ∧ fills.firstWaiting (itemAs st []) = none ∧
      fills.fillPlace 40 = some (1, 8, 0) ∧ fills.rsc.settings.station.fillThreshold = 0) ∧
    (∀ n, n = 23 ∨ n = 24 → (trays n).scanStopped = false ∧ (trays n).item 0 = some (itemAs st []) ∧
      (trays n).firstWaiting (itemAs st []) = none ∧ (trays n).fillPlace 40 = none ∧ (trays n).rsc.tray.length = n) ∧
    (itemAs st []).cls.lendable = true ∧ waits.loan 65535 = some ⟨0, 1, 0, 1, 2, false⟩ ∧
    waits.borrower 1 = some (reader 1 0) ∧ (∀ p, waits.fillAt 7 p = false ∧ fills.fillAt 7 p = false) ∧
    (∀ g ∈ waits.circ.pages, g.item ≠ 0) := by
  rintro st (rfl | rfl | rfl | rfl) <;> refine ⟨by decide +kernel, by decide +kernel, ?_, by decide +kernel⟩ <;>
    rintro n (rfl | rfl) <;> decide +kernel
theorem witness_Scans_repeated :
    (scanFrom (.holdShelf 3) []).scanStopped = false ∧
    (scanFrom (.holdShelf 3) []).item 0 = some (itemAs (.holdShelf 3) []) ∧
    (withFill (scanFrom (.shelved 8 7) [])).scanStopped = false ∧
    (withFill (scanFrom (.shelved 8 7) [])).item 0 = some (itemAs (.shelved 8 7) []) ∧
    (withFill (scanFrom (.shelved 8 7) [])).fillOf 8 = some ⟨8, .presented 1⟩ := by decide +kernel
theorem witness_Tray : Served rq (having .inTray []) ∧ station? 5 = some 5 ∧ accession? (accessionChars 0) = some 0 ∧
    (having .inTray []).item 0 = some (itemAs .inTray []) ∧
    (having .missing []).item 0 = some (itemAs .missing []) ∧ ItemState.missing ≠ .inTray :=
  ⟨served_of (by decide +kernel), by decide +kernel⟩

/-! ### Witnesses: the fire interlock -/

/-- A line that counts to tick 5 at a level. -/
def counting (level : Bool) : Line := { level := level, filtered := !level, count := some 5 }
/-- The building holds the wing, and A3's zone is in a state with one line counting. -/
def alarmed (st : ZoneState) (k : ZoneLine) (at5 : Nat) : State :=
  let s := State.setZone { at32 wing at5 with
    fiu.buildingClaim := true, fiu.building := { level := true, filtered := true, count := none } } 3
    { Zone.reset with state := st }
  s.setLine 3 k (counting true)

theorem witness_InputLines :
    (true ≠ ((wing.zone 4).lines.get .rearm).level ∧ true ≠ ((wing.zone 4).lines.get .rearm).filtered ∧
      0 < wing.rsc.settings.interlock.filter) ∧
    (false ≠ (((alarmed .standby .alarm 0).zone 3).lines.get .alarm).level ∧
      false = (((alarmed .standby .alarm 0).zone 3).lines.get .alarm).filtered) ∧
    (((alarmed .standby .alarm 4).zone 3).lines.get .alarm).due (alarmed .standby .alarm 4).svp.tick = false ∧
    (let s := alarmed .standby .alarm 5;
      s.fiu.buildingClaim = true ∧ s.fiu.building.filtered = true ∧ s.svp.notices.length < 64 ∧
      (s.zone 3).lines.alarm.due s.svp.tick = true ∧ (s.zone 3).lines.alarm.level = true ∧
      (s.zone 3).state = .standby ∧ (s.zone 3).parkTimer = none ∧ (s.zone 3).shutterTimer = none ∧
      (s.zone 3).reopenPending = false ∧ (s.crane 3).state ≠ .parked) ∧
    (let s := alarmed .secured .dis 5;
      s.fiu.buildingClaim = true ∧ s.fiu.building.filtered = true ∧ (s.zone 3).lines.dis.due s.svp.tick = true ∧
      (s.zone 3).lines.dis.level = true ∧ (s.zone 3).state = .secured ∧ (s.zone 3).reopenPending = false ∧
      (s.queue 3).state = .running) ∧
    (let s := (alarmed .secured .dis 5).setQueue 3 { Queue.reset with state := .stopping, reason := some .host };
      (s.queue 3).state = .stopping ∧ s.svp.notices.length < 63 ∧ s.fiu.buildingClaim = true ∧
      s.fiu.building.filtered = true ∧ (s.zone 3).lines.dis.due s.svp.tick = true ∧
      (s.zone 3).lines.dis.level = true ∧ (s.zone 3).state = .secured ∧ (s.zone 3).reopenPending = false) := by
  decide +kernel

/-- A3's zone NORMAL with an ALARM due, its crane IDLE, some bins in the port's buffer; A0 in service or not. -/
def leaving (s : State) (buffer : List Nat) (on : Bool) : State :=
  let t := (craned (at32 s 5) 3 (fun c => { c with state := .idle, buffer := buffer })).setLine 3 .alarm (counting true)
  { t with rsc.inService := #v[on, false, false, false] }

/-- Bin 7 at A3's port under PUTAWAY 127. -/
def buffered : State := wing.setBin 7 (binAs (.atPort 3 (some xl)) (.job 127))
/-- Bin 7 RETURNING to A3 with the last slot reserved. -/
def bound : State :=
  (wing.setBin 7 (binAs (.returning 3 (some xl)) .none)).setSlot xl { wing.slot xl with state := .reserved 7 }

theorem witness_LeaveNormal : ∀ on, let s := leaving buffered [7] on; let r := leaving bound [] on
    (∀ q, q = s ∨ q = r → q.fiu.buildingClaim = q.fiu.buildingClaimNow ∧ q.svp.mountState = .mounted ∧
      q.svp.notices.length < 64 ∧ (q.zone 3).lines.alarm.due q.svp.tick = true ∧
      (q.zone 3).lines.alarm.level = true ∧ (q.zone 3).state = .normal ∧ (q.zone 3).parkTimer = none ∧
      (q.zone 3).shutterTimer = none ∧ (q.zone 3).reopenPending = false ∧ (q.crane 3).state = .idle ∧
      (q.crane 3).resume = none ∧ (q.crane 3).overflow = []) ∧
    (s.crane 3).buffer = [7] ∧ (s.bin 7).owner = .job 127 ∧ s.returningTo 3 = [] ∧
    (r.crane 3).buffer = [] ∧ r.returningTo 3 = [7] ∧ (r.bin 7).state = .returning 3 (some xl) ∧
    (r.slot xl).state = .reserved 7 ∧ (r.bin 7).owner = .none ∧
    r.wingSearch .standard .general (allAisles.filter (· ≠ 3)) = if on then some (x0, 0) else none := by
  intro on; refine ⟨?_, ?_⟩
  · rintro q (rfl | rfl) <;> cases on <;> decide +kernel
  · cases on <;> decide +kernel

/-- The building holds the wing, and a zone is in a state with one line counting to a level. -/
def lined (z : ZoneNo) (q : Zone) (k : ZoneLine) (level : Bool) : State :=
  let s := State.setZone { at32 wing 5 with
    fiu.buildingClaim := true, fiu.building := { level := true, filtered := true, count := none } } z q
  s.setLine z k (counting level)

theorem witness_LastInputAndRearm : ∀ z : ZoneNo,
    (∀ k, k ≠ .rearm → let r := (lined z { Zone.reset with state := .secured } k false).zone z
      (r.lines.get k).due 5 = true ∧ (r.lines.get k).level = false ∧ r.state = .secured ∧
      ∀ m, m ≠ k → m ≠ .rearm → (r.lines.get m).filtered = false) ∧
    (let r := (lined z { Zone.reset with state := .discharged, latch := true } .rearm true).zone z;
      (r.lines.get .rearm).due 5 = true ∧ (r.lines.get .rearm).level = true ∧ r.isActive = false ∧
      r.state = .discharged) ∧
    ((lined z { Zone.reset with lines.dis.filtered := true } .rearm true).zone z).isActive = true := by
  intro z
  refine ⟨?_, by revert z; decide +kernel⟩
  intro k hk
  refine ⟨?_, ?_, ?_, ?_⟩
  · revert z; cases k <;> decide +kernel
  · revert z; cases k <;> decide +kernel
  · revert z; cases k <;> decide +kernel
  · intro m hm hr; revert z
    cases k <;> cases m <;>
      first | exact absurd rfl hk | exact absurd rfl hm | exact absurd rfl hr | decide +kernel
theorem witness_FrontEndAlarm :
    let s := lined 4 { Zone.reset with state := .normal } .alarm true
    s.fiu.buildingClaim = true ∧ s.fiu.building.filtered = true ∧ s.svp.notices.length < 64 ∧
    ((s.zone 4).lines.get .alarm).due s.svp.tick = true ∧ ((s.zone 4).lines.get .alarm).level = true ∧
    (4 : ZoneNo) = frontEnd ∧ (s.zone 4).state = .normal ∧ (s.station fillStation).isOpen = false := by decide +kernel
theorem witness_AuthorityLine :
    true ≠ wing.fiu.building.level ∧ true ≠ wing.fiu.building.filtered ∧ wing.fiu.building.due wing.svp.tick = false ∧
    (let s : State := { at32 wing 5 with fiu.libraryClaim := false, fiu.building := counting true };
      s.fiu.building.due s.svp.tick = true ∧ s.fiu.building.level = true ∧ s.fiu.libraryClaim = false ∧
      s.fiu.buildingClaim = false) := by decide +kernel

/-- The wing with no claim on it. -/
def unheld : State := { wing with fiu.libraryClaim := false }
/-- The wing under supervision, its timer due or not, lapsed or not. -/
def supervised (due : Tick) (lapsed : Bool) : State :=
  { wing with fiu.epoch := 255, fiu.supTimer := some due, fiu.lapsed := lapsed }

theorem witness_Authority : Served rq unheld ∧ unheld.NoneAvailable ∧ wing.NoneAvailable ∧
    unheld.fiu.buildingClaim = false ∧ unheld.fiu.libraryClaim = false ∧ (∀ a, (unheld.crane a).state ≠ .parked) ∧
    State.fiu { wing with fiu.buildingClaim := true } = { wing.fiu with buildingClaim := true } ∧
    wing.fiu.libraryClaim = true ∧ wing.fiu.buildingClaim = false ∧ wing.rsc.settings.interlock.supervision ≠ 0 ∧
    wing.fiu.lapsed = false ∧ 255 ≠ wing.fiu.epoch.toNat ∧ dueAt wing.fiu.supTimer wing.svp.tick = false ∧
    dueAt (supervised 0 false).fiu.supTimer (supervised 0 false).svp.tick = true ∧
    (supervised 0 false).fiu.lapsed = false ∧ (supervised 0 true).fiu.lapsed = true :=
  ⟨served_of (by decide +kernel), none_of (by decide +kernel), none_of (by decide +kernel), by decide +kernel⟩
theorem witness_Authority_expiry : (supervised 0 true).NoneAvailable ∧
    dueAt (supervised 0 true).fiu.supTimer (supervised 0 true).svp.tick = true ∧
    (supervised 0 true).fiu.libraryClaim = true ∧ (supervised 0 true).fiu.buildingClaim = false :=
  ⟨none_of (by decide +kernel), by decide +kernel⟩

/-- A3's zone as a function of the one at reset. -/
def shuttered (f : Zone → Zone) : State := wing.setZone 3 (f Zone.reset)

theorem witness_Zones_timers :
    (let r := (shuttered (fun z => { z with state := .securing, parkTimer := some 0 })).zone 3;
      r.parkTimer = some 0 ∧ Tick.reached 0 0 = true ∧ (r.shutterCmd = .open ∨ r.confirmed = false)) ∧
    ((shuttered id).zone 3).parkTimer = none ∧
    (let r := (shuttered (fun z => { z with
        shutterCmd := .open, reopenPending := true, shutterTimer := some 0 })).zone 3;
      r.shutterTimer = some 0 ∧ r.reopenPending = true) ∧
    (let r := (shuttered (fun z => { z with state := .securing, shutterTimer := some 0 })).zone 3;
      r.shutterTimer = some 0 ∧ r.reopenPending = false ∧ r.state = .securing ∧ r.shutterCmd = .close) ∧
    ((shuttered id).zone 3).shutterTimer = none ∧ ((shuttered id).zone 3).shutterCmd = .close ∧
    ((shuttered id).zone 3).reopenPending = false := by decide +kernel
theorem witness_Zones_reopened :
    let s := shuttered (fun z => { z with shutterCmd := .open, reopenPending := true, shutterTimer := some 0 })
    (s.zone 3).reopenPending = true ∧ (s.queue 3).putback = none ∧ (s.crane 3).buffer = [] ∧
    (s.crane 3).overflow = [] ∧ s.clu.fireJobs = [] ∧ s.returningFire = [] ∧ s.circ.pages = [] ∧ s.riu.fills = [] ∧
    s.riu.noQualifier = false ∧ (s.crane 3).available = false ∧ (s.crane 3).state ≠ .parked := by decide +kernel

/-- A3's zone reopening with a FIRE-owned bin 7 in a state, a job recorded against it or none, a PUTBACK waiting or
none, and some bins in the port's buffer. -/
def reopening (st : BinState) (recorded putback : Option Nat) (buffer : List Nat) : State :=
  let s := shuttered (fun z => { z with shutterCmd := .open, reopenPending := true, shutterTimer := some 0 })
  let s := ((s.setBin 7 (binAs st .fire)).setJob 127 { putaway7 with aisle := some 3 }).setSlot xl { wing.slot xl with
    state := .reserved 7 }
  { craned (s.setQueue 3 { s.queue 3 with putback := putback }) 3 (fun c => { c with buffer := buffer }) with
    clu.fireJobs := (recorded.map (fun j => (7, j))).toList }

theorem witness_Zones_handBack : ∀ s, s = reopening (.onCrane (some xl)) (some 127) (some 127) [] ∨
      s = reopening (.atPort 3 (some xl)) (some 127) none [7] ∨ s = reopening (.atPort 3 (some xl)) none none [7] →
    (s.zone 3).reopenPending = true ∧ s.svp.mountState = .mounted ∧ (s.bin 7).owner = .fire ∧
    (s.crane 3).overflow = [] ∧ s.returningFire = [] ∧ s.circ.pages = [] ∧ s.riu.fills = [] ∧
    s.riu.noQualifier = false ∧ (s.crane 3).available = false ∧ (s.crane 3).state ≠ .parked ∧
    s.svp.notices.length < 64 ∧ (s.job 127).any (fun q => q.aisle = some 3) = true ∧ s.freeJob = some 0 ∧
    (s.queue 3).used < 32 ∧ (s.slot xl).state = .reserved 7 ∧ xl.aisle = 3 := by
  rintro s (rfl | rfl | rfl) <;> decide +kernel
theorem witness_Zones_requests : Served rq (shuttered id) ∧ zone? 3 = some 3 ∧ (3 : ZoneNo) ≠ frontEnd ∧
    (shuttered id).authority = .library ∧ unheld.authority ≠ .library ∧ ((shuttered id).zone 3).state = .standby ∧
    ((shuttered id).zone 3).latch = false ∧ (wing.zone 3).state ≠ .standby ∧ (wing.zone 3).latch = false ∧
    ((shuttered (fun z => { z with state := .discharged, latch := true })).zone 3).latch = true :=
  ⟨served_of (by decide +kernel), by decide +kernel⟩

/-- Z4 in STANDBY, every station in FIRE_HOLD over CLOSED. -/
def frontHeld : State := State.each (wing.setZone 4 Zone.reset) allStations State.holdStation

theorem witness_Zones_front : Served rq frontHeld ∧ frontHeld.NoneAvailable ∧ zone? 4 = some 4 ∧
    (4 : ZoneNo) = frontEnd ∧ (frontHeld.zone 4).state = .standby ∧ (frontHeld.zone 4).latch = false ∧
    frontHeld.authority = .library ∧ (∀ u, (frontHeld.station u).state = .fireHold .closed) ∧
    (∀ p, (frontHeld.position fillStation p).content = .empty ∧
      (frontHeld.position fillStation p).expiredInHold = false) :=
  ⟨served_of (by decide +kernel), none_of (by decide +kernel), by decide +kernel⟩

/-! ### Witnesses: the whole machine -/

theorem witness_MovementAndLending :
    (Instr.openStation rq 5).movesBins = true ∧ (∃ t, exec (.openStation rq 5) wing = .next t) ∧
    (Instr.setDay rq 1).lendsOnly = true ∧ (∃ t, exec (.setDay rq 1) wing = .next t) :=
  ⟨rfl, ⟨_, rfl⟩, rfl, _, rfl⟩
theorem witness_LatchAndClaim :
    (∃ t, exec .tick (zoned wing 3 (fun r => { r with latch := true })) = .next t) ∧
    (zoned wing 3 (fun r => { r with latch := true })).latched 3 = true ∧
    (∃ t, exec .tick wing = .next t ∧ t.fiu.libraryClaim = true) :=
  ⟨⟨_, rfl⟩, by decide +kernel, _, rfl, rfl⟩
/-- A wing whose aisle A2 has two jobs and a waiting PUTBACK, a full buffer and a bin in the lane of S5. -/
def busyWing : State :=
  let s := (wing.setQueue 2 { Queue.reset with jobs := [126, 127], putback := some 0 }).withCommand .tick
  (craned s 2 (fun c => { c with buffer := [7, 8] })).setStation 5 { Station.reset with lane := [9] }

theorem witness_EveryStep : (∃ t, step State.reset = .next t) ∧ (∃ t, step busyWing = .next t) ∧ busyWing.Form ∧
    busyWing.Bounded :=
  ⟨⟨_, rfl⟩, ⟨_, rfl⟩, form_of (by decide +kernel), by constructor <;> decide +kernel⟩

/-- The wing with no bin and no item has its records in agreement. -/
theorem witness_RecordsInAgreement : (∃ t, step (wing.withCommand .tick) = .next t) ∧
    (wing.withCommand .tick).Form ∧ (wing.withCommand .tick).RackAgrees ∧ (wing.withCommand .tick).OwnersAgree ∧
    (wing.withCommand .tick).HoldsAgree ∧ (wing.withCommand .tick).TrayAgrees ∧
    (wing.withCommand .tick).FillsAgree := by
  have hb : ∀ b, (wing.withCommand .tick).bin b = Bin.unused := fun _ => rfl
  have hs : ∀ x, (wing.withCommand .tick).slot x = Slot.initial x := fun _ => rfl
  refine ⟨⟨_, rfl⟩, form_of (by decide +kernel), ?_, ⟨?_, ?_⟩, ⟨?_, ?_, ?_, ?_⟩, ?_, ⟨?_, ?_, ?_, ?_⟩⟩
  · intro b x q
    rw [hb, hs]
    constructor
    · intro h; cases h
    · rintro ⟨rfl, h⟩; cases h
  · intro b j h; rw [hb] at h; cases h
  · intro e h; cases h
  · intro n r h; cases h
  · intro acc it h; cases h
  · intro acc it h; cases h
  · intro acc it h; cases h
  · intro acc
    constructor
    · intro h; cases h
    · rintro ⟨it, h, -⟩; cases h
  · intro b k; rw [hb]; revert k; decide
  · intro b k; rw [hb]; show Bin.unused.fills[k] = 0; revert k; decide
  · intro b; rw [hb]; rfl
  · intro acc it b k h; cases h

/-- Bin 7 holds the items 0 and 1 in compartments 7 and 0. -/
def twoShelved : State :=
  let s := (wing.setItem 0 (itemAs (.shelved 7 7) [])).setItem 1 (itemAs (.shelved 7 0) [])
  s.setBin 7 { Bin.unused with state := .uncertain, fills := #v[40, 0, 0, 0, 0, 0, 0, 40], count := 2 }

theorem witness_FillsAgree : twoShelved.FillsAgree := by
  have hb : ∀ b, 7 ≠ b → twoShelved.bin b = Bin.unused := by
    intro b h; simp [twoShelved, State.bin, State.setBin, State.setItem, wing, State.reset, Rsc.initial, Tab.put,
      Tab.find, h, Bin.unused]
  have ht : ∀ b, 7 ≠ b → (∀ k, Tab.total (Item.fillOf b k) twoShelved.rsc.items = 0) ∧
      Tab.total (Item.countOf b) twoShelved.rsc.items = 0 := by
    intro b h; simp [twoShelved, State.setBin, State.setItem, wing, State.reset, Rsc.initial, Tab.put, Tab.total,
      itemAs, Item.fillOf, Item.countOf, ItemState.shelvedIn, h]
  refine ⟨fun b k => ?_, fun b k => ?_, fun b => ?_, fun acc it b k h1 h2 h3 => ?_⟩
  · by_cases h : 7 = b
    · subst h; revert k; decide
    · rw [hb b h]; revert k; decide
  · by_cases h : 7 = b
    · subst h; revert k; decide
    · rw [hb b h, (ht b h).1]; revert k; decide
  · by_cases h : 7 = b
    · subst h; decide
    · rw [hb b h, (ht b h).2]; rfl
  · have h4 : it.state.shelvedIn.map Prod.fst = some 7 := by
      have h1 : Tab.find [(0, itemAs (.shelved 7 7) []), (1, itemAs (.shelved 7 0) [])] acc = some it := h1
      simp only [Tab.find] at h1
      split at h1
      · cases h1; rfl
      · split at h1
        · cases h1; rfl
        · cases h1
    rw [h2] at h4; cases h4
    revert h3; decide

/-- What has been sent when a step answers a next state. -/
def sent : Out → List Output
  | .next t => t.outputs
  | _ => []

/-- A step that sends an order: a START_AISLE over a stopped queue whose crane is IDLE. -/
theorem witness_NoOrderAgainstTheInterlock :
    let r := craned (stationed fetching 5 (.normal .opened)) 2 (fun c => { c with state := .idle })
    let s := r.setQueue 2 { r.queue 2 with state := .stopped, reason := some .host }
    s.outputs = [] ∧
      sent (step (s.withCommand (.startAisle rq 2))) = [.order 2 (.retrieve 7 (some x2) false 1)] := by
  decide +kernel

end Sys2Proof.Tests
end

section
/-! PROOF. The bounds of a merit's three terms (R71, R72), and SET_DISPATCH's clamp of the travel weight that the
last of them rests on (R79). -/

namespace Sys2Proof.Machine

/-! ### The terms of a merit -/

/-- The travel of a job's first leg as its merit takes it, with the wake penalty of a RESTING crane (R69, R71). -/
def State.meritTravel (s : State) (a : Aisle) (r : Job) : Nat :=
  let d := s.rsc.settings.dispatch
  travelWith d (if (s.crane a).state = .resting then d.wake else 0) (s.crane a).at (s.firstLeg a r)

theorem merit_eq (s : State) (a : Aisle) (r : Job) :
    s.merit a r = ((200 * s.meritPriority a r : Nat) : Int) +
      (min 250 (r.enqueued.age s.svp.tick / 100 / s.rsc.settings.dispatch.ageStep) : Nat) -
      (s.meritTravel a r * s.rsc.settings.dispatch.wt / 8 : Nat) := rfl

theorem meritPriority_putaway {s : State} {a : Aisle} {r : Job} (h : r.kind = .putaway) :
    s.meritPriority a r = if (s.crane a).buffer.length = Config.bufferPlaces then 3 else 2 := by
  simp [State.meritPriority, h]

theorem meritPriority_of_ne_putaway {s : State} {a : Aisle} {r : Job} (h : r.kind ≠ .putaway) :
    s.meritPriority a r = r.priority := by
  unfold State.meritPriority
  split
  · contradiction
  · rfl

/-- A PUTAWAY counts as priority 2 or 3 whatever its record holds, so that only the others rest on the premise. -/
theorem meritPriority_le {s : State} {a : Aisle} {r : Job} (h : r.priority ≤ 3) : s.meritPriority a r ≤ 3 := by
  by_cases hk : r.kind = .putaway
  · rw [meritPriority_putaway hk]
    split <;> decide
  · rwa [meritPriority_of_ne_putaway hk]

/-- The travel estimate saturates. -/
theorem travelWith_le (d : DispatchSettings) (penalty : Nat) (p q : CranePos) :
    travelWith d penalty p q ≤ Config.maxTravel :=
  Nat.min_le_right _ _

theorem meritTravel_le (s : State) (a : Aisle) (r : Job) : s.meritTravel a r ≤ 1023 :=
  travelWith_le _ _ _ _

/-- A weight of at most 15 eighths of a saturated travel is at most 1023 * 15 / 8. -/
theorem weightedTravel_le {travel wt : Nat} (ht : travel ≤ 1023) (hw : wt ≤ 15) : travel * wt / 8 ≤ 1918 :=
  Nat.div_le_div_right (c := 8) (Nat.mul_le_mul ht hw)

/-- The greatest weighted travel is reached only with both factors at their greatest: one less of either gives at
most 1022 * 15 / 8 = 1916 or 1023 * 14 / 8 = 1790. -/
theorem weightedTravel_eq_max {travel wt : Nat} (ht : travel ≤ 1023) (hw : wt ≤ 15)
    (h : travel * wt / 8 = 1918) : wt = 15 ∧ travel = 1023 := by
  have hwt : wt = 15 := by
    by_contra hne
    have : travel * wt ≤ 1023 * 14 := Nat.mul_le_mul ht (by omega)
    omega
  subst hwt
  exact ⟨rfl, by omega⟩

/-- The limits of a merit follow from those of its terms. -/
theorem merit_bounds {P G W : Nat} {m : Int} (hm : m = (P : Int) + G - W) (hP : P ≤ 600) (hG : G ≤ 250)
    (hW : W ≤ 1918) : -1918 ≤ m ∧ m ≤ 850 := by
  omega

/-! ### SET_DISPATCH -/

/-- A request leaves the persistent records as they are, or as its body leaves them: the refusals of the frame and
of the mount state write the response alone. -/
theorem serveAs_next_rsc {k : Service} {h : Hdr} {s t : State} {body : State → State × Reply}
    (ht : serveAs k h s body = .next t) : t.rsc = s.rsc ∨ t.rsc = (body s).1.rsc := by
  unfold serveAs at ht
  split at ht
  case isTrue => cases ht; exact .inl rfl
  split at ht
  case isTrue => cases ht; exact .inl rfl
  split at ht
  case h_1 => cases ht; exact .inl rfl
  split at ht
  case isTrue => cases ht; exact .inr rfl
  case isFalse => cases ht; exact .inl rfl

theorem clampTo_le {lo hi : Nat} (h : lo ≤ hi) (v : Nat) : clampTo lo hi v ≤ hi := by
  unfold clampTo
  split
  · exact h
  · split <;> omega

/-- Only setting 1 writes the travel weight. -/
theorem write_wt_of_ne {k : Nat} (hk : k ≠ 1) (d : DispatchSettings) (v : Nat) : (d.write k v).wt = d.wt := by
  unfold DispatchSettings.write
  split
  case h_2 => contradiction
  all_goals rfl

/-- A dispatch setting written within its range keeps the travel weight within its own. -/
theorem write_clamped_wt_le {d : DispatchSettings} {k lo hi : Nat} (hr : dispatchRange k = some (lo, hi)) (v : Nat)
    (hd : d.wt ≤ 15) : (d.write k (clampTo lo hi v)).wt ≤ 15 := by
  by_cases hk : k = 1
  · subst hk
    cases hr
    exact clampTo_le (lo := 0) (hi := 15) (by decide) v
  · rwa [write_wt_of_ne hk]

theorem exec_setDispatch (h : Hdr) (k v : Nat) (s : State) :
    exec (.setDispatch h k v) s = execSetDispatch h k v s := by
  rfl

theorem setDispatch_keeps_wt_le {h : Hdr} {k v : Nat} {s t : State} (hs : s.rsc.settings.dispatch.wt ≤ 15)
    (ht : exec (.setDispatch h k v) s = .next t) : t.rsc.settings.dispatch.wt ≤ 15 := by
  rw [exec_setDispatch, execSetDispatch, serve] at ht
  obtain hrsc | hrsc := serveAs_next_rsc ht
  · rwa [hrsc]
  · rw [hrsc]
    split
    · exact hs
    · next hr => exact write_clamped_wt_le hr v hs

end Sys2Proof.Machine

namespace Sys2Proof.Proofs

open Sys2Proof Sys2Proof.Machine

/-- Settles O31: each term of a merit is bounded by its own lemma, and SET_DISPATCH clamps the weight. -/
theorem meritStaysWithinItsLimits : Obligations.MeritStaysWithinItsLimits := by
  refine ⟨fun s a r hwt hp => ?_, fun h k v s t hs ht => setDispatch_keeps_wt_le hs ht⟩
  have hP : 200 * s.meritPriority a r ≤ 600 := Nat.mul_le_mul_left 200 (meritPriority_le hp)
  have hG := Nat.min_le_left 250 (r.enqueued.age s.svp.tick / 100 / s.rsc.settings.dispatch.ageStep)
  have hT := meritTravel_le s a r
  have hW := weightedTravel_le hT hwt
  have hM := merit_eq s a r
  exact ⟨_, _, _, s.meritTravel a r, hM, hP, hG, hW, hT, rfl, weightedTravel_eq_max hT hwt,
    merit_bounds hM hP hG hW⟩

end Sys2Proof.Proofs
end

section
/-! PROOF. The borrower requests (R128 to R130) and SET_CALENDAR_BASE (R134): what a whole request frame is answered
while mount runs and after it, the tests of a borrower's token and class, and the marks a moved window keeps. -/

namespace Sys2Proof.Machine

/-! ### A whole frame before and after mount -/

/-- A whole request frame meets an empty response slot, and no record fault: only a mount that runs can refuse it
before its own table does (R192, R193, R196, R200). -/
structure Whole (h : Hdr) (s : State) : Prop where
  slotEmpty : s.svp.resp = none
  tagged : h.tag ≠ 0
  whole : h.lengthOk = true
  noFault : s.svp.mountState ≠ .recordFault

/-- Mount refuses a whole frame before every other test, and otherwise the request is its body (R196). -/
theorem serve_of_whole {h : Hdr} {s : State} (w : Whole h s) (body : State → State × Reply) :
    serve h s body = .next (
      if s.svp.mountState = .mounting then s.answer h .mounting false []
      else (body s).1.answer h (body s).2.code (body s).2.clamped (body s).2.fields) := by
  obtain ⟨hresp, htag, hlen, hfault⟩ := w
  have htag' : ¬h.tag = 0#8 := htag
  cases hm : s.svp.mountState with
  | mounting => simp [serve, serveAs, hresp, htag', hm, Service.refusal, respond_eq_answer, refuse]
  | mounted => simpa using serve_served h s body ⟨hresp, htag, hlen, hm⟩
  | recordFault => exact absurd hm hfault

/-! ### The operands of the borrower requests (R127, R128) -/

theorem borrowerClass?_of_lt {c : Nat} (h : 3 < c) : borrowerClass? c = none :=
  dif_neg (by omega)

theorem borrowerClass?_of_not_lt {c : Nat} (h : ¬3 < c) : borrowerClass? c = some (Fin.ofNat 4 c) := by
  have hc : c < 4 := by omega
  rw [borrowerClass?, dif_pos hc]
  exact congrArg some (Fin.ext (Nat.mod_eq_of_lt hc).symm)

theorem tokenOk_eq_false_iff {n : Nat} : tokenOk n = false ↔ n = 0 ∨ 16777215 < n := by
  have hmax : Config.maxToken = 16777215 := rfl
  rw [tokenOk, Bool.and_eq_false_iff, decide_eq_false_iff_not, decide_eq_false_iff_not, hmax]
  omega

/-- A borrower request that reads a token and a class, and goes on with the class when both are well formed. -/
def readOperands (token cls : Nat) (s : State) (f : Fin 4 → State × Reply) : State × Reply :=
  match borrowerClass? cls with
  | none => refused s .badArgument
  | some c => if !tokenOk token then refused s .badArgument else f c

/-- The model tests the class first; the table refuses both operands in one row. -/
theorem readOperands_eq (token cls : Nat) (s : State) (f : Fin 4 → State × Reply) :
    readOperands token cls s f =
      if token = 0 ∨ 16777215 < token ∨ 3 < cls then refused s .badArgument else f (Fin.ofNat 4 cls) := by
  by_cases hc : 3 < cls
  · simp [readOperands, borrowerClass?_of_lt hc, hc]
  · simp only [readOperands, borrowerClass?_of_not_lt hc, Bool.not_eq_true', tokenOk_eq_false_iff, hc, or_false]

/-! ### Borrower records -/

@[simp] theorem State.borrower_answer (s : State) (h : Hdr) (c : ResultCode) (k : Bool) (fs : List Field) (n : Nat) :
    (s.answer h c k fs).borrower n = s.borrower n := rfl

theorem State.borrower_delBorrower (s : State) (n m : Nat) :
    (s.delBorrower n).borrower m = if n = m then none else s.borrower m := Tab.find_del _ _ _

/-! ### The borrower requests (R128 to R130) -/

theorem exec_registerBorrower (h : Hdr) (token cls : Nat) (s : State) :
    exec (.registerBorrower h token cls) s = serve h s (fun s => readOperands token cls s (fun c =>
      if (s.borrower token).isSome then refused s .duplicate
      else if Config.borrowers ≤ s.rsc.borrowers.length then refused s .tableFull
      else (s.setBorrower token { cls := c, blocked := false, loans := 0, holds := 0 }, refuse .done))) := by
  rfl

theorem exec_setBorrower (h : Hdr) (token cls : Nat) (blocked : Bool) (s : State) :
    exec (.setBorrower h token cls blocked) s = serve h s (fun s => readOperands token cls s (fun c =>
      match s.borrower token with
      | none => refused s .unknown
      | some r => (s.setBorrower token { r with cls := c, blocked := blocked }, refuse .done))) := by
  rfl

theorem exec_retireBorrower (h : Hdr) (token : Nat) (s : State) :
    exec (.retireBorrower h token) s = execRetireBorrower h token s := by
  rfl

theorem registerBorrower_answers {h : Hdr} {s : State} (w : Whole h s) (token cls : Nat) :
    exec (.registerBorrower h token cls) s = .next (
      if s.svp.mountState = .mounting then s.answer h .mounting false []
      else if token = 0 ∨ 16777215 < token ∨ 3 < cls then s.answer h .badArgument false []
      else if s.borrower token ≠ none then s.answer h .duplicate false []
      else if 32768 ≤ s.rsc.borrowers.length then s.answer h .tableFull false []
      else State.answer (s.setBorrower token { cls := Fin.ofNat 4 cls, blocked := false, loans := 0, holds := 0 })
        h .done false []) := by
  rw [exec_registerBorrower, serve_of_whole w]
  congr 2
  rw [readOperands_eq]
  simp only [Option.isSome_iff_ne_none, show Config.borrowers = 32768 from rfl]
  split_ifs <;> rfl

theorem setBorrower_answers {h : Hdr} {s : State} (w : Whole h s) (token cls : Nat) (blocked : Bool) :
    exec (.setBorrower h token cls blocked) s = .next (
      if s.svp.mountState = .mounting then s.answer h .mounting false []
      else if token = 0 ∨ 16777215 < token ∨ 3 < cls then s.answer h .badArgument false []
      else match s.borrower token with
        | none => s.answer h .unknown false []
        | some r => State.answer (s.setBorrower token { r with cls := Fin.ofNat 4 cls, blocked := blocked }) h
            .done false []) := by
  rw [exec_setBorrower, serve_of_whole w]
  congr 2
  rw [readOperands_eq]
  split_ifs
  · rfl
  · cases s.borrower token <;> rfl

theorem retireBorrower_answers {h : Hdr} {s : State} (w : Whole h s) (token : Nat) :
    exec (.retireBorrower h token) s = .next (
      if s.svp.mountState = .mounting then s.answer h .mounting false []
      else if token = 0 ∨ 16777215 < token then s.answer h .badArgument false []
      else match s.borrower token with
        | none => s.answer h .unknown false []
        | some r =>
          if 0 < r.loans ∨ 0 < r.holds then s.answer h .active false []
          else (s.delBorrower token).answer h .done false []) := by
  rw [exec_retireBorrower, execRetireBorrower, serve_of_whole w]
  congr 2
  simp only [Bool.not_eq_true', tokenOk_eq_false_iff]
  split_ifs
  · rfl
  · cases s.borrower token with
    | none => rfl
    | some r => dsimp only; split_ifs <;> rfl

/-! ### The window of the calendar (R132, R134) -/

theorem State.isClosed_iff (s : State) (d : Nat) :
    s.isClosed d = true ↔ s.rsc.calBase ≤ d ∧ d < s.rsc.calBase + 512 ∧ d ∈ s.rsc.closedDays := by
  rw [State.isClosed, Bool.and_eq_true, Bool.and_eq_true, decide_eq_true_eq, decide_eq_true_eq, List.contains_iff_mem,
    and_assoc]
  exact Iff.rfl

@[simp] theorem State.isClosed_answer (s : State) (h : Hdr) (c : ResultCode) (k : Bool) (fs : List Field) (d : Nat) :
    (s.answer h c k fs).isClosed d = s.isClosed d := rfl

/-- A day past the window has no mark. -/
theorem State.isClosed_of_window_le {s : State} {d : Nat} (h : s.rsc.calBase + 512 ≤ d) : s.isClosed d = false := by
  rw [← Bool.not_eq_true, s.isClosed_iff]
  omega

/-- The window begins at a new base, with the marks of the days it still holds (R134). -/
def State.moveBase (s : State) (n : Nat) : State :=
  { s with
    rsc.closedDays := s.rsc.closedDays.filter (fun d => n ≤ d && s.isClosed d)
    rsc.calBase := n }

/-- A mark that is kept lies in the new window too, because a window that moves forward ends no earlier. -/
theorem State.isClosed_moveBase {s : State} {n : Nat} (hn : s.rsc.calBase ≤ n) (d : Nat) :
    (s.moveBase n).isClosed d = (s.isClosed d && decide (n ≤ d)) := by
  have hmoved : (s.moveBase n).isClosed d = true ↔
      n ≤ d ∧ d < n + 512 ∧ d ∈ s.rsc.closedDays ∧ n ≤ d ∧ s.isClosed d = true := by
    rw [State.isClosed_iff]
    simp [State.moveBase]
  rw [Bool.eq_iff_iff, hmoved, Bool.and_eq_true, decide_eq_true_eq]
  have hclosed := s.isClosed_iff d
  constructor
  · rintro ⟨hd, -, -, -, hc⟩
    exact ⟨hc, hd⟩
  · rintro ⟨hc, hd⟩
    obtain ⟨-, hlast, hmem⟩ := hclosed.mp hc
    exact ⟨hd, by omega, hmem, hd, hc⟩

/-- A day below the new base has no mark afterwards, and neither has a day past the old window. -/
theorem State.isClosed_moveBase_eq_false {s : State} {n d : Nat} (hn : s.rsc.calBase ≤ n)
    (hd : d < n ∨ s.rsc.calBase + 512 ≤ d) : (s.moveBase n).isClosed d = false := by
  rw [State.isClosed_moveBase hn]
  obtain hlow | hhigh := hd
  · simp [hlow]
  · rw [State.isClosed_of_window_le hhigh, Bool.false_and]

theorem exec_setCalendarBase (h : Hdr) (n : Nat) (s : State) :
    exec (.setCalendarBase h n) s = execSetCalendarBase h n s := by
  rfl

theorem setCalendarBase_answers {h : Hdr} {s : State} (w : Whole h s) (n : Nat) :
    exec (.setCalendarBase h n) s = .next (
      if s.svp.mountState = .mounting then s.answer h .mounting false []
      else if 65023 < n then s.answer h .badArgument false []
      else if n < s.rsc.calBase then s.answer h .backward false []
      else if n = s.rsc.calBase then s.answer h .done false []
      else (s.moveBase n).answer h .done false []) := by
  rw [exec_setCalendarBase, execSetCalendarBase, serve_of_whole w]
  congr 2
  split_ifs <;> rfl

end Sys2Proof.Machine

namespace Sys2Proof.Proofs

open Sys2Proof Sys2Proof.Machine

/-- Settles O46: the marks kept are those of `State.isClosed_moveBase`, and every clause about a day follows. -/
theorem calendarBaseKeepsTheMarks : Obligations.CalendarBaseKeepsTheMarks := by
  intro h n s hresp htag hlen hfault
  rw [setCalendarBase_answers ⟨hresp, htag, hlen, hfault⟩]
  refine ⟨fun hm => by rw [if_pos hm], fun hm => ?_⟩
  have hm' : s.svp.mountState ≠ .mounting := by simp [hm]
  rw [if_neg hm']
  refine ⟨fun hbig => by rw [if_pos hbig], fun hle hlt => ?_, fun hle heq => ?_, fun hle hlt => ?_⟩
  · rw [if_neg (by omega), if_pos hlt]
  · rw [if_neg (by omega), if_neg (by omega), if_pos heq]
  · rw [if_neg (by omega), if_neg (by omega), if_neg (by omega)]
    have hmarks := State.isClosed_moveBase (Nat.le_of_lt hlt)
    have hopen (d) := State.isClosed_moveBase_eq_false (d := d) (Nat.le_of_lt hlt)
    refine ⟨_, rfl, rfl, hmarks, fun d hd _ => ?_, fun d hd _ => hopen d (by omega), fun d hd => hopen d (.inl hd),
      fun hfar d => hopen d (by omega)⟩
    rw [State.isClosed_answer, hmarks, decide_eq_true hd, Bool.and_true]

/-- Settles O44: each request answers by its table, and a record that is removed is the only one that changes. -/
theorem borrowersAreRegisteredAndRetired : Obligations.BorrowersAreRegisteredAndRetired := by
  intro h token cls blocked s hresp htag hlen hfault
  have w : Whole h s := ⟨hresp, htag, hlen, hfault⟩
  refine ⟨registerBorrower_answers w token cls, setBorrower_answers w token cls blocked,
    _, retireBorrower_answers w token, ?_⟩
  split_ifs
  · rfl
  · rfl
  · cases s.borrower token with
    | none => rfl
    | some r =>
      dsimp only
      split_ifs
      · rfl
      · refine ⟨?_, fun k hk => ?_, rfl⟩
        · rw [State.borrower_answer, State.borrower_delBorrower, if_pos rfl]
        · rw [State.borrower_answer, State.borrower_delBorrower, if_neg (Ne.symm hk)]

end Sys2Proof.Proofs
end
